-- ==== Sys2Proof/Word.lean ====
section
/-! DEFINITION. The word types of the machine: the 16-bit Word and the register number (00_scope.md R6, R9; 10_state.md R20). -/

namespace Sys2Proof

/-- R9: a Word is a 16-bit vector. Its unsigned value `uval` is `BitVec.toNat`, its two's-complement value
`sval` is `BitVec.toInt`; `+` and `-` on Words are modulo 2^16. It is also the type of an address (R50). -/
abbrev Word := BitVec 16

/-- R20, R86: a register number is 3 bits and selects R0..R7 by its unsigned value. -/
abbrev RegIdx := BitVec 3

end Sys2Proof
end

