-- ==== Sys2Proof/Config.lean ====
section
/-! DEFINITION. The implementation parameters of 00_scope.md R6, each at the value the spec fixes. There is no free
value: the spec leaves no result open. The opcode map is a parameter too and stands in Decode.lean. -/

namespace Sys2Proof

/-- R6 `FAULT_PC`, R254: what the pc is after a fault. -/
inductive FaultPc where
  /-- the address of the faulting instruction (the spec's default, D6) -/
  | precise
  /-- that address + 1: the engine's advance is not undone -/
  | advanced
deriving DecidableEq, Repr

/-- R6 `STR_OFFSET_EXT`, 93 I6: how STR extends its offset6. -/
inductive OffsetExt where
  /-- zero-extension: as the source states (the spec's default) -/
  | zext
  /-- sign-extension: the other value a model may take -/
  | sext
deriving DecidableEq, Repr

/-- R6: `FAULT_PC` = precise (90_conflicts.md C1). -/
def Config.faultPc : FaultPc := .precise

/-- R6, R186: `STR_OFFSET_EXT` = zext (90_conflicts.md C6). -/
def Config.strOffsetExt : OffsetExt := .zext

/-- R6 `FLAGS_RESET`: no flag set, in the order N Z P (assumption 4). -/
def Config.flagsReset : BitVec 3 := 0b000

/-- R6 `SUPERVISOR_RESET`, R29: "supervisor mode off". -/
def Config.supervisorReset : Bool := false

/-- R6 `RUNNING_RESET`, R31 (assumption 5). -/
def Config.runningReset : Bool := true

/-- R6 `MEM_WORDS`, R50: the memory has 2^16 words. -/
abbrev Config.memWords : Nat := 65536

end Sys2Proof
end

