-- ==== Sys2Proof/Syntax.lean ====
section
/-! DEFINITION. The instructions: one constructor for each row of spec/opcode_table.json (30_encoding.md R83). -/

namespace Sys2Proof

/-- R82: the 16 named opcode variants (JSR and JSRR are one variant, split by bit 11: R88). -/
inductive Opcode where
  | br | add | ld | st | jsr | and | ldr | str | rti | not | ldi | sti | jmp | invalid | lea | trap
deriving DecidableEq, Repr

/-- The name of an opcode variant as R82 writes it; a fault record carries "the rejected opcode name" (R34, R250). -/
def Opcode.name : Opcode → String
  | .br => "BR"
  | .add => "ADD"
  | .ld => "LD"
  | .st => "ST"
  | .jsr => "JSR / JSRR"
  | .and => "AND"
  | .ldr => "LDR"
  | .str => "STR"
  | .rti => "RTI"
  | .not => "NOT"
  | .ldi => "LDI"
  | .sti => "STI"
  | .jmp => "JMP"
  | .invalid => "INVALID"
  | .lea => "LEA"
  | .trap => "TRAP"

/-- An instruction, with its operand fields as R83 names them. A field keeps the bits of the encoding; how an
immediate is extended to 16 bits is part of the meaning (R87). Every field is as wide as its encoding, so every
value of a field can be encoded (R86: no register outside R0..R7 can be named).

A don't-care bit (R84) "decodes to the same instruction" whatever its value, so it is no operand. Two rows keep
their ignored bits, RTI and INVALID: they can fault, and the fault record holds the 16-bit word (R34), so there the
bits can be seen by the host. -/
inductive Instr where
  /-- R121, register mode: DR := SR1 + SR2 -/
  | add (dr sr1 sr2 : RegIdx)
  /-- R121, immediate mode: DR := SR1 + sext(imm5) -/
  | addi (dr sr1 : RegIdx) (imm5 : BitVec 5)
  /-- R122, register mode: DR := SR1 AND SR2 -/
  | and (dr sr1 sr2 : RegIdx)
  /-- R122, immediate mode: DR := SR1 AND sext(imm5) -/
  | andi (dr sr1 : RegIdx) (imm5 : BitVec 5)
  /-- R123: DR := complement of SR -/
  | not (dr sr : RegIdx)
  /-- R150: branch if a flag named by the mask nzp (n is bit 2, z bit 1, p bit 0) is set -/
  | br (nzp : BitVec 3) (offset9 : BitVec 9)
  /-- R151: jump through a register -/
  | jmp (baseR : RegIdx)
  /-- R152: pc-relative jump, no link -/
  | jsr (offset11 : BitVec 11)
  /-- R153: jump through a register, no link -/
  | jsrr (baseR : RegIdx)
  /-- R180: pc-relative load -/
  | ld (dr : RegIdx) (offset9 : BitVec 9)
  /-- R181: pc-relative indirect load -/
  | ldi (dr : RegIdx) (offset9 : BitVec 9)
  /-- R182: base + signed offset load -/
  | ldr (dr baseR : RegIdx) (offset6 : BitVec 6)
  /-- R183: load effective address -/
  | lea (dr : RegIdx) (offset9 : BitVec 9)
  /-- R184: pc-relative store -/
  | st (sr : RegIdx) (offset9 : BitVec 9)
  /-- R185: pc-relative indirect store -/
  | sti (sr : RegIdx) (offset9 : BitVec 9)
  /-- R186: base + unsigned offset store -/
  | str (sr baseR : RegIdx) (offset6 : BitVec 6)
  /-- R220: the privileged placeholder -/
  | rti (ignored : BitVec 12)
  /-- R221: system service; vector x25 halts -/
  | trap (vector8 : BitVec 8)
  /-- R222: the unused opcode, which raises DecodeError -/
  | invalid (ignored : BitVec 12)
deriving DecidableEq, Repr

/-- R82, R91: the opcode variant of an instruction. -/
def Instr.opcode : Instr → Opcode
  | .add _ _ _ => .add
  | .addi _ _ _ => .add
  | .and _ _ _ => .and
  | .andi _ _ _ => .and
  | .not _ _ => .not
  | .br _ _ => .br
  | .jmp _ => .jmp
  | .jsr _ => .jsr
  | .jsrr _ => .jsr
  | .ld _ _ => .ld
  | .ldi _ _ => .ldi
  | .ldr _ _ _ => .ldr
  | .lea _ _ => .lea
  | .st _ _ => .st
  | .sti _ _ => .sti
  | .str _ _ _ => .str
  | .rti _ => .rti
  | .trap _ => .trap
  | .invalid _ => .invalid

/-- The row of spec/opcode_table.json an instruction stands for, by the table's mnemonic. -/
def Instr.mnemonic : Instr → String
  | .add _ _ _ => "ADD"
  | .addi _ _ _ => "ADDI"
  | .and _ _ _ => "AND"
  | .andi _ _ _ => "ANDI"
  | .not _ _ => "NOT"
  | .br _ _ => "BR"
  | .jmp _ => "JMP"
  | .jsr _ => "JSR"
  | .jsrr _ => "JSRR"
  | .ld _ _ => "LD"
  | .ldi _ _ => "LDI"
  | .ldr _ _ _ => "LDR"
  | .lea _ _ => "LEA"
  | .st _ _ => "ST"
  | .sti _ _ => "STI"
  | .str _ _ _ => "STR"
  | .rti _ => "RTI"
  | .trap _ => "TRAP"
  | .invalid _ => "INVALID"

end Sys2Proof
end

