-- ==== Sys2Proof/Machine/State.lean ====
section
/-! DEFINITION. Every piece of state the spec gives the CORE (10_state.md R30), its value at construction (R39), and the
reasons a step or a host call can stop. Plain data. -/

namespace Sys2Proof.Machine

/-- R23: the condition-flag register, three bits. -/
structure Flags where
  n : Bool
  z : Bool
  p : Bool
deriving DecidableEq, Repr

/-- R24: the flags as a 3-bit value has N as bit 2, Z as bit 1 and P as bit 0 (assumption 13). -/
def Flags.ofBits (b : BitVec 3) : Flags := ⟨b.getLsbD 2, b.getLsbD 1, b.getLsbD 0⟩

/-- One word of memory at an address. R54: "The memory has no bytes", so a cell holds a whole word (assumption 14). -/
abbrev Cell := Nat × Word

/-- R35, R50: the memory, as the cells that differ from what an unlisted address reads as, in the canonical form
`Memory.wf`. -/
abbrev Memory := List Cell

/-- R35, R39: memory is "Created zero-filled", so an address that is not listed reads 0x0000. -/
def Memory.unlisted : Word := 0x0000

/-- The canonical form: addresses strictly rising, inside the address space (R50), and no cell that holds what an
unlisted address reads as. Equal memories are then equal lists. -/
abbrev Memory.wf (m : Memory) : Prop :=
  m.Pairwise (fun c d => c.1 < d.1) ∧ ∀ c ∈ m, c.1 < Config.memWords ∧ c.2 ≠ Memory.unlisted

/-- R250: the two exceptions. -/
inductive FaultKind where
  /-- raised by the INVALID opcode -/
  | decodeError
  /-- raised by RTI outside supervisor mode -/
  | privilegeError
deriving DecidableEq, Repr

/-- R34: what the halt/error handler records. -/
structure FaultRecord where
  kind : FaultKind
  /-- the rejected opcode name -/
  opcode : Opcode
  /-- the address of the faulting instruction -/
  address : Word
  /-- its 16-bit word -/
  word : Word
deriving DecidableEq, Repr

/-- R33: the engine's status. -/
inductive Status where
  | idle | running | halted | faulted
deriving DecidableEq, Repr

/-- R92: what a step returns to its caller. -/
inductive StepOutcome where
  /-- an instruction completed and `running` is 1 -/
  | completed
  /-- an instruction completed and set `running` to 0 -/
  | halted
  /-- the instruction raised an exception -/
  | fault (kind : FaultKind)
  /-- the engine was already Halted or Faulted and did nothing -/
  | noEffect
deriving DecidableEq, Repr

/-- The machine state (R30, R39). Nothing else is state (R36, R37, R38). -/
structure State where
  /-- R20: R0..R7 -/
  regs : Vector Word 8
  /-- R26: the program counter -/
  pc : Word
  /-- R23: N, Z, P -/
  flags : Flags
  /-- R29: supervisor mode; false is user mode -/
  supervisor : Bool
  /-- R31: the halt flag; false after TRAP x25 -/
  running : Bool
  /-- R32: the count of completed instructions -/
  processed : Nat
  /-- R34: empty, or the record of the fault that stopped the engine -/
  faultLatch : Option FaultRecord
  /-- R35: memory -/
  mem : Memory
deriving DecidableEq, Repr

/-- A step that stops the machine with a fault of the interface. There is none, which this type says by having no
constructor: the spec gives a next state for each of its two exceptions (R254), for a halt (R221) and for a step after
either (R271, R272), and no access or encoding stops it otherwise (R53, R55, R85). -/
inductive Fault where
deriving DecidableEq, Repr

/-- A call that is turned away. -/
inductive Refusal where
  /-- Raised by no arm of `exec` (every row of the opcode table has its meaning); the interface asks for the name.
  Safe: nothing is claimed of a refused instruction. -/
  | notModelled (mnemonic : String)
  /-- Raised by the host boundary only (`loadImage`), for a load image that is empty or holds a line that is not 16
  characters '0' or '1' (R279, 93 I4). Safe: the spec says such a call is a contract violation, and no state results. -/
  | malformedImage
deriving DecidableEq, Repr

/-- R39, R300: the state at construction, the only initialisation the hardware has. -/
def State.reset : State where
  regs := Vector.replicate 8 0x0000
  pc := 0x0000
  flags := Flags.ofBits Config.flagsReset
  supervisor := Config.supervisorReset
  running := Config.runningReset
  processed := 0
  faultLatch := none
  mem := []

end Sys2Proof.Machine
end

