-- ==== Sys2Proof/Machine/Flags.lean ====
section
/-! DEFINITION. Every flag computation the spec gives: setcc and the 3-bit view (10_state.md R23, R24), and the branch
condition (41_control.md R150). -/

namespace Sys2Proof.Machine

/-- R23: the flags "derived from the signed value just written". -/
def setcc (v : Word) : Flags :=
  if v.msb then ⟨true, false, false⟩
  else if v = 0x0000 then ⟨false, true, false⟩
  else ⟨false, false, true⟩

/-- R24: the flags as a 3-bit value, N high (assumption 13). -/
def Flags.toBits (f : Flags) : BitVec 3 := BitVec.ofBool f.n ++ BitVec.ofBool f.z ++ BitVec.ofBool f.p

/-- R150: "(nzp bitmask AND current flags) ≠ 0". -/
def Flags.meets (f : Flags) (nzp : BitVec 3) : Bool := nzp &&& f.toBits ≠ 0

end Sys2Proof.Machine
end

