-- ==== Sys2Proof/Machine/Ops.lean ====
section
/-! DEFINITION. The named operations over registers, pc and memory that every meaning is written with, the halt, and the
taking of an exception. -/

namespace Sys2Proof.Machine

/-! ## Memory (20_memory.md) -/

/-- R51: the word at address `a`; what is not listed reads as `Memory.unlisted`. -/
def Memory.read : Memory → Word → Word
  | [], _ => Memory.unlisted
  | (k, v) :: rest, a => if k = a.toNat then v else Memory.read rest a

/-- The memory with address `a` reading as unlisted. -/
def Memory.erase (m : Memory) (a : Word) : Memory := m.filter (fun c => c.1 ≠ a.toNat)

/-- A cell put at its place among cells of rising address. -/
def Memory.place : Memory → Cell → Memory
  | [], c => [c]
  | d :: rest, c => if c.1 < d.1 then c :: d :: rest else d :: Memory.place rest c

/-- R52: the word at address `a` replaced by `v`, and nothing else changed. A word equal to what an unlisted address
reads as is not listed, so the canonical form is kept. -/
def Memory.write (m : Memory) (a v : Word) : Memory :=
  if v = Memory.unlisted then m.erase a else Memory.place (m.erase a) (a.toNat, v)

/-- R51 `MemRead(a, 1)`: changes no state. -/
def State.load (s : State) (a : Word) : Word := s.mem.read a

/-- R52 `MemWrite(a, 1, v)`: no effect on flags. -/
def State.store (s : State) (a v : Word) : State := { s with mem := s.mem.write a v }

/-! ## Registers and pc (10_state.md) -/

/-- R21 `x[i]`: the 16-bit value, without side effect. -/
def State.readReg (s : State) (i : RegIdx) : Word := s.regs[i.toNat]'i.isLt

/-- The register file with register `i` holding `v`. No register is hardwired (R20). -/
def State.setReg (s : State) (i : RegIdx) (v : Word) : State := { s with regs := s.regs.set i.toNat v i.isLt }

/-- R22 `x[i] <- v`, the one register-write path: it writes the register and recomputes the flags. -/
def State.writeReg (s : State) (i : RegIdx) (v : Word) : State := { s.setReg i v with flags := setcc v }

/-- `pc <- t`: every 16-bit value is a legal pc (R28). -/
def State.jump (s : State) (t : Word) : State := { s with pc := t }

/-- R27: the engine's advance at every fetch, modulo 2^16. -/
def State.advance (s : State) : State := s.jump (s.pc + 1)

/-- R31, R221: `running <- false`. -/
def State.halt (s : State) : State := { s with running := false }

/-! ## Exceptions (60_exceptions.md)

A meaning runs after the engine's advance (R12), so the address of the instruction in execution is `pc - 1`. -/

/-- R12: the address of the instruction in execution. -/
def State.currentAddress (s : State) : Word := s.pc - 1

/-- R254: the halt/error handler, for either value of the parameter FAULT_PC. It records the fault and, when faults
are precise, undoes the engine's advance. It writes no register, memory, flag, supervisor or running bit; the
engine does not count the instruction (`retire`). -/
def State.raiseWith (fp : FaultPc) (kind : FaultKind) (opcode : Opcode) (word : Word) (s : State) : State :=
  { s with
    pc := match fp with
      | .precise => s.currentAddress
      | .advanced => s.pc
    faultLatch := some { kind := kind, opcode := opcode, address := s.currentAddress, word := word } }

/-- R254: taking an exception, under the value FAULT_PC has here. -/
def State.raise (kind : FaultKind) (opcode : Opcode) (word : Word) (s : State) : State :=
  s.raiseWith Config.faultPc kind opcode word

/-- R256, R220: "There is nothing to return from"; RTI, the only return instruction, restores nothing. -/
def State.returnFromInterrupt (s : State) : State := s

/-- R250: the cause code of an exception, used at the status output only (assumption 15). -/
def FaultKind.code : FaultKind → Nat
  | .decodeError => 1
  | .privilegeError => 2

/-! ## Status -/

/-- R33: the engine's status, a function of the fault latch, `running` and `processed`. -/
def State.status (s : State) : Status :=
  if s.faultLatch ≠ none then .faulted
  else if s.running = false then .halted
  else if s.processed = 0 then .idle
  else .running

end Sys2Proof.Machine
end

