-- ==== Sys2Proof/Machine/Operands.lean ====
section
/-! DEFINITION. Every operand form: the extension of each immediate (00_scope.md R10, 30_encoding.md R87) and every
addressing mode (42_load_store.md R187). `pc` is the instruction's address plus 1 when an operand is formed (R12). -/

namespace Sys2Proof.Machine

/-- R10: "replicating a field's most-significant bit into all higher-order bits of a full Word". -/
def sext16 {k : Nat} (f : BitVec k) : Word := f.signExtend 16

/-- R10: bits 15..k are 0. -/
def zext16 {k : Nat} (f : BitVec k) : Word := f.setWidth 16

/-- R187 pc-relative: `pc + sext_16(offset9)`, modulo 2^16 (R53). -/
def State.pcRelative (s : State) (offset9 : BitVec 9) : Word := s.pc + sext16 offset9

/-- R187 pc-relative indirect: the word at the pc-relative address is the effective address. -/
def State.pcIndirect (s : State) (offset9 : BitVec 9) : Word := s.load (s.pcRelative offset9)

/-- R187 base + signed offset. -/
def State.baseSigned (s : State) (baseR : RegIdx) (offset6 : BitVec 6) : Word := s.readReg baseR + sext16 offset6

/-- R186: offset6 of a store, as the parameter STR_OFFSET_EXT extends it. -/
def extendOffset6 (ext : OffsetExt) (offset6 : BitVec 6) : Word :=
  match ext with
  | .zext => zext16 offset6
  | .sext => sext16 offset6

/-- R187 base + unsigned offset, under the value STR_OFFSET_EXT has here. -/
def State.baseUnsigned (s : State) (baseR : RegIdx) (offset6 : BitVec 6) : Word :=
  s.readReg baseR + extendOffset6 Config.strOffsetExt offset6

/-- R27 `movePCRelative(offset)`: "`pc += offset` (signed)", modulo 2^16. -/
def State.movePcRelative {k : Nat} (s : State) (offset : BitVec k) : State := s.jump (s.pc + sext16 offset)

end Sys2Proof.Machine
end

