-- ==== Sys2Proof/Machine/Control.lean ====
section
/-! DEFINITION. The control transfers BR, JMP, JSR, JSRR (41_control.md). None writes a register or the flags; no return
address is saved (R155). -/

namespace Sys2Proof.Machine

/-- R150. -/
def execBr (nzp : BitVec 3) (offset9 : BitVec 9) (s : State) : Host.Outcome State Fault Refusal :=
  .next (if s.flags.meets nzp then s.movePcRelative offset9 else s)

/-- R151. -/
def execJmp (baseR : RegIdx) (s : State) : Host.Outcome State Fault Refusal :=
  .next (s.jump (s.readReg baseR))

/-- R152: "no link-register save is performed". -/
def execJsr (offset11 : BitVec 11) (s : State) : Host.Outcome State Fault Refusal :=
  .next (s.movePcRelative offset11)

/-- R153: behaves exactly as JMP. -/
def execJsrr (baseR : RegIdx) (s : State) : Host.Outcome State Fault Refusal :=
  .next (s.jump (s.readReg baseR))

end Sys2Proof.Machine
end

