-- ==== Sys2Proof/Machine/LoadStore.lean ====
section
/-! DEFINITION. The loads, the stores and LEA (42_load_store.md). Loads and LEA write through the register-write path and
so set the flags; stores set no flag. Every address is readable and writable (20_memory.md R58, R59). -/

namespace Sys2Proof.Machine

/-- R180. -/
def execLd (dr : RegIdx) (offset9 : BitVec 9) (s : State) : Host.Outcome State Fault Refusal :=
  .next (s.writeReg dr (s.load (s.pcRelative offset9)))

/-- R181: the pointer is read first, then the data at the pointer. -/
def execLdi (dr : RegIdx) (offset9 : BitVec 9) (s : State) : Host.Outcome State Fault Refusal :=
  .next (s.writeReg dr (s.load (s.pcIndirect offset9)))

/-- R182: the address uses the base register's old value, also when DR is the base. -/
def execLdr (dr baseR : RegIdx) (offset6 : BitVec 6) (s : State) : Host.Outcome State Fault Refusal :=
  .next (s.writeReg dr (s.load (s.baseSigned baseR offset6)))

/-- R183: the address itself is written; no memory is read. -/
def execLea (dr : RegIdx) (offset9 : BitVec 9) (s : State) : Host.Outcome State Fault Refusal :=
  .next (s.writeReg dr (s.pcRelative offset9))

/-- R184. -/
def execSt (sr : RegIdx) (offset9 : BitVec 9) (s : State) : Host.Outcome State Fault Refusal :=
  .next (s.store (s.pcRelative offset9) (s.readReg sr))

/-- R185: the pointer is read before the write (R61). -/
def execSti (sr : RegIdx) (offset9 : BitVec 9) (s : State) : Host.Outcome State Fault Refusal :=
  .next (s.store (s.pcIndirect offset9) (s.readReg sr))

/-- R186: the offset is NOT sign-extended. -/
def execStr (sr baseR : RegIdx) (offset6 : BitVec 6) (s : State) : Host.Outcome State Fault Refusal :=
  .next (s.store (s.baseUnsigned baseR offset6) (s.readReg sr))

end Sys2Proof.Machine
end

