-- ==== Sys2Proof/Machine/Operate.lean ====
section
/-! DEFINITION. The operate instructions ADD, AND, NOT (40_operate.md). A meaning is given the state after the engine's
advance (30_encoding.md R90). Sources are read before the destination is written (00_scope.md R11). -/

namespace Sys2Proof.Machine

/-- R120: addition of two Words, modulo 2^16. -/
def aluAdd (a b : Word) : Word := a + b

/-- R120, R122: bitwise AND on all 16 bits. -/
def aluAnd (a b : Word) : Word := a &&& b

/-- R120, R123: bitwise complement of all 16 bits. -/
def aluNot (a : Word) : Word := ~~~a

/-- R121, register mode. -/
def execAdd (dr sr1 sr2 : RegIdx) (s : State) : Host.Outcome State Fault Refusal :=
  .next (s.writeReg dr (aluAdd (s.readReg sr1) (s.readReg sr2)))

/-- R121, immediate mode. -/
def execAddi (dr sr1 : RegIdx) (imm5 : BitVec 5) (s : State) : Host.Outcome State Fault Refusal :=
  .next (s.writeReg dr (aluAdd (s.readReg sr1) (sext16 imm5)))

/-- R122, register mode. -/
def execAnd (dr sr1 sr2 : RegIdx) (s : State) : Host.Outcome State Fault Refusal :=
  .next (s.writeReg dr (aluAnd (s.readReg sr1) (s.readReg sr2)))

/-- R122, immediate mode. -/
def execAndi (dr sr1 : RegIdx) (imm5 : BitVec 5) (s : State) : Host.Outcome State Fault Refusal :=
  .next (s.writeReg dr (aluAnd (s.readReg sr1) (sext16 imm5)))

/-- R123. -/
def execNot (dr sr : RegIdx) (s : State) : Host.Outcome State Fault Refusal :=
  .next (s.writeReg dr (aluNot (s.readReg sr)))

end Sys2Proof.Machine
end

