-- ==== Sys2Proof/WellFormed.lean ====
section
/-! DEFINITION. Well-formed instructions. Every operand field of Instr is exactly as wide as its encoding (R86, R87), so
no operand value has to be refused; the one check left is that the encoding is a legal one (30_encoding.md R85). -/

namespace Sys2Proof

/-- R85: the opcode names an instruction; "The only illegal encodings are the 4096 words with opcode 1101". -/
def Opcode.legal : Opcode → Bool
  | .invalid => false
  | .br | .add | .ld | .st | .jsr | .and | .ldr | .str | .rti | .not | .ldi | .sti | .jmp | .lea | .trap => true

/-- An instruction is well formed when its opcode is legal. INVALID is a row of the opcode table and has a meaning
(executing it raises DecodeError: R222), but it is no legal encoding. -/
def Instr.wellFormed (i : Instr) : Bool := i.opcode.legal

end Sys2Proof
end

