-- ==== Sys2Proof/Decode.lean ====
section
/-! DEFINITION. The opcode map, the decoder (total on the 65536 words: R89), the encoder, and spec/opcode_table.json as
data. Written from 30_encoding.md R81 to R89. -/

namespace Sys2Proof

/-- The field of `len` bits of `w` whose lowest bit is bit `lo` (R7: bit 0 is the least significant bit). -/
def bitField (w : Word) (lo len : Nat) : BitVec len := w.extractLsb' lo len

/-- R82, the `OPCODE_MAP` of R6 (decision D1: assumption 1): the value of each opcode variant. -/
def opcodeBits : Opcode → BitVec 4
  | .br => 0x0
  | .add => 0x1
  | .ld => 0x2
  | .st => 0x3
  | .jsr => 0x4
  | .and => 0x5
  | .ldr => 0x6
  | .str => 0x7
  | .rti => 0x8
  | .not => 0x9
  | .ldi => 0xA
  | .sti => 0xB
  | .jmp => 0xC
  | .invalid => 0xD
  | .lea => 0xE
  | .trap => 0xF

/-- R82: the variant of an opcode value. All 16 values are mapped (R85), so nothing is "unrecognized". -/
def opcodeOfBits (b : BitVec 4) : Opcode :=
  match b.toNat with
  | 0x0 => .br
  | 0x1 => .add
  | 0x2 => .ld
  | 0x3 => .st
  | 0x4 => .jsr
  | 0x5 => .and
  | 0x6 => .ldr
  | 0x7 => .str
  | 0x8 => .rti
  | 0x9 => .not
  | 0xA => .ldi
  | 0xB => .sti
  | 0xC => .jmp
  | 0xD => .invalid
  | 0xE => .lea
  | _ => .trap

/-- R81: the opcode is bits [15:12]. -/
def opcodeField (w : Word) : BitVec 4 := bitField w 12 4

/-- R81 to R89: the instruction a word encodes. Total: every word decodes, the 4096 words with opcode 1101 to the row
INVALID, which the machine rejects by its name when it runs it (R222). The bits R83 marks `x` are not read (R84),
but for the two rows whose fault record shows them (RTI, INVALID). -/
def decode (w : Word) : Instr :=
  match opcodeOfBits (opcodeField w) with
  | .add =>
    if bitField w 5 1 = 0 then .add (bitField w 9 3) (bitField w 6 3) (bitField w 0 3)
    else .addi (bitField w 9 3) (bitField w 6 3) (bitField w 0 5)
  | .and =>
    if bitField w 5 1 = 0 then .and (bitField w 9 3) (bitField w 6 3) (bitField w 0 3)
    else .andi (bitField w 9 3) (bitField w 6 3) (bitField w 0 5)
  | .not => .not (bitField w 9 3) (bitField w 6 3)
  | .br => .br (bitField w 9 3) (bitField w 0 9)
  | .jmp => .jmp (bitField w 6 3)
  | .jsr => if bitField w 11 1 = 1 then .jsr (bitField w 0 11) else .jsrr (bitField w 6 3)
  | .ld => .ld (bitField w 9 3) (bitField w 0 9)
  | .ldi => .ldi (bitField w 9 3) (bitField w 0 9)
  | .ldr => .ldr (bitField w 9 3) (bitField w 6 3) (bitField w 0 6)
  | .lea => .lea (bitField w 9 3) (bitField w 0 9)
  | .st => .st (bitField w 9 3) (bitField w 0 9)
  | .sti => .sti (bitField w 9 3) (bitField w 0 9)
  | .str => .str (bitField w 9 3) (bitField w 6 3) (bitField w 0 6)
  | .rti => .rti (bitField w 0 12)
  | .trap => .trap (bitField w 0 8)
  | .invalid => .invalid (bitField w 0 12)

/-- The host's view of the decoder. Every row of the table is one word of 16 bits (R80); a row of more bits does not
exist and is refused, fewer bits leave the bits above them 0. -/
def decodeTableWord (nbits w : Nat) : Option Instr :=
  if nbits ≤ 16 then some (decode (BitVec.ofNat 16 (w % 2 ^ nbits))) else none

/-- The word that holds the field `f` with its lowest bit at bit `lo`, and 0 elsewhere (R7). -/
def fieldAt {k : Nat} (f : BitVec k) (lo : Nat) : Word := f.setWidth 16 <<< lo

/-- R83: the operand fields of an instruction at their places in the word, the don't-care bits at the value the source's
layout shows (R83's quotes; where it shows none, 0). -/
def Instr.operandBits : Instr → Word
  | .add dr sr1 sr2 => fieldAt dr 9 ||| fieldAt sr1 6 ||| fieldAt sr2 0
  | .addi dr sr1 imm5 => fieldAt dr 9 ||| fieldAt sr1 6 ||| fieldAt 0b1#1 5 ||| fieldAt imm5 0
  | .and dr sr1 sr2 => fieldAt dr 9 ||| fieldAt sr1 6 ||| fieldAt sr2 0
  | .andi dr sr1 imm5 => fieldAt dr 9 ||| fieldAt sr1 6 ||| fieldAt 0b1#1 5 ||| fieldAt imm5 0
  | .not dr sr => fieldAt dr 9 ||| fieldAt sr 6 ||| fieldAt 0b111111#6 0
  | .br nzp offset9 => fieldAt nzp 9 ||| fieldAt offset9 0
  | .jmp baseR => fieldAt baseR 6
  | .jsr offset11 => fieldAt 0b1#1 11 ||| fieldAt offset11 0
  | .jsrr baseR => fieldAt baseR 6
  | .ld dr offset9 => fieldAt dr 9 ||| fieldAt offset9 0
  | .ldi dr offset9 => fieldAt dr 9 ||| fieldAt offset9 0
  | .ldr dr baseR offset6 => fieldAt dr 9 ||| fieldAt baseR 6 ||| fieldAt offset6 0
  | .lea dr offset9 => fieldAt dr 9 ||| fieldAt offset9 0
  | .st sr offset9 => fieldAt sr 9 ||| fieldAt offset9 0
  | .sti sr offset9 => fieldAt sr 9 ||| fieldAt offset9 0
  | .str sr baseR offset6 => fieldAt sr 9 ||| fieldAt baseR 6 ||| fieldAt offset6 0
  | .rti ignored => fieldAt ignored 0
  | .trap vector8 => fieldAt vector8 0
  | .invalid ignored => fieldAt ignored 0

/-- R81, R83: the word of an instruction: its opcode at bits [15:12] and its operand fields below. -/
def encode (i : Instr) : Word := fieldAt (opcodeBits i.opcode) 12 ||| i.operandBits

/-- One row of spec/opcode_table.json: its mnemonic, the value of its fixed bits, which bits are fixed, and which bits
R83 marks don't-care. -/
structure TableRow where
  mnemonic : String
  fixedBits : Word
  mask : Word
  ignored : Word
deriving DecidableEq, Repr

/-- R89: the word matches the row (`word & mask == match`). -/
def TableRow.admits (r : TableRow) (w : Word) : Bool := w &&& r.mask == r.fixedBits

/-- spec/opcode_table.json, row by row, with the don't-care bits of R83. -/
def opcodeTable : List TableRow :=
  [ ⟨"ADD", 0x1000, 0xF020, 0x0018⟩,
    ⟨"ADDI", 0x1020, 0xF020, 0x0000⟩,
    ⟨"AND", 0x5000, 0xF020, 0x0018⟩,
    ⟨"ANDI", 0x5020, 0xF020, 0x0000⟩,
    ⟨"NOT", 0x9000, 0xF000, 0x003F⟩,
    ⟨"BR", 0x0000, 0xF000, 0x0000⟩,
    ⟨"JMP", 0xC000, 0xF000, 0x0E3F⟩ ] ++
  [ ⟨"JSR", 0x4800, 0xF800, 0x0000⟩,
    ⟨"JSRR", 0x4000, 0xF800, 0x063F⟩,
    ⟨"LD", 0x2000, 0xF000, 0x0000⟩,
    ⟨"LDI", 0xA000, 0xF000, 0x0000⟩,
    ⟨"LDR", 0x6000, 0xF000, 0x0000⟩,
    ⟨"LEA", 0xE000, 0xF000, 0x0000⟩ ] ++
  [ ⟨"ST", 0x3000, 0xF000, 0x0000⟩,
    ⟨"STI", 0xB000, 0xF000, 0x0000⟩,
    ⟨"STR", 0x7000, 0xF000, 0x0000⟩,
    ⟨"RTI", 0x8000, 0xF000, 0x0FFF⟩,
    ⟨"TRAP", 0xF000, 0xF000, 0x0F00⟩,
    ⟨"INVALID", 0xD000, 0xF000, 0x0FFF⟩ ]

end Sys2Proof
end

