-- ==== Sys2Proof/Machine/System.lean ====
section
/-! DEFINITION. RTI, TRAP and the INVALID opcode (43_system.md). -/

namespace Sys2Proof.Machine

/-- R223: the privilege-mode gate, which RTI alone passes through. -/
def State.privileged (s : State) : Bool := s.supervisor

/-- R220: outside supervisor mode RTI raises PrivilegeError; in it RTI restores nothing. -/
def execRti (ignored : BitVec 12) (s : State) : Host.Outcome State Fault Refusal :=
  if s.privileged then .next s.returnFromInterrupt
  else .next (s.raise .privilegeError .rti (encode (.rti ignored)))

/-- R221: the vector of the halt service. -/
def haltVector : BitVec 8 := 0x25

/-- R221: vector x25 halts; x20..x24 are recognised and do nothing, any other vector is ignored. -/
def execTrap (vector8 : BitVec 8) (s : State) : Host.Outcome State Fault Refusal :=
  .next (if vector8 = haltVector then s.halt else s)

/-- R222: DecodeError, always, in either privilege mode. -/
def execInvalid (ignored : BitVec 12) (s : State) : Host.Outcome State Fault Refusal :=
  .next (s.raise .decodeError .invalid (encode (.invalid ignored)))

end Sys2Proof.Machine
end

