-- ==== Sys2Proof/Machine/Engine.lean ====
section
/-! DEFINITION. The execution engine (30_encoding.md R90, R92; 60_exceptions.md R254, R271, R272): the guards, the fetch, the
advance, the execution and the retirement of one instruction. -/

namespace Sys2Proof.Machine

/-- R90: the engine is Halted or Faulted, and a step has no effect (R271, R272). -/
def State.stopped (s : State) : Bool := s.faultLatch.isSome || !s.running

/-- R90, R65: the word at the pc, "Memory[pc]" as it stands at that moment. -/
def State.fetch (s : State) : Word := s.load s.pc

/-- R90: the instruction the next step runs. -/
def State.nextInstr (s : State) : Instr := decode s.fetch

/-- R32: the engine counts a completed instruction. -/
def State.count (s : State) : State := { s with processed := s.processed + 1 }

/-- R90, R92: what the engine does with the state an instruction left. A faulting instruction is not counted (R254);
any other is, the halting TRAP included (R32). The latch was empty before the instruction ran, so it is
filled exactly when the instruction raised. -/
def State.retire (s : State) : State × StepOutcome :=
  match s.faultLatch with
  | some r => (s, .fault r.kind)
  | none => (s.count, if s.running then .completed else .halted)

/-- R90: one step of the engine, with the outcome it returns to its caller. -/
def engineStep (s : State) : Host.Outcome (State × StepOutcome) Fault Refusal :=
  if s.stopped then .next (s, .noEffect)
  else
    match exec s.nextInstr s.advance with
    | .next t => .next t.retire
    | .fault f => .fault f
    | .refused r => .refused r

/-- The state part of an engine step. -/
def stateOf : Host.Outcome (State × StepOutcome) Fault Refusal → Host.Outcome State Fault Refusal
  | .next (t, _) => .next t
  | .fault f => .fault f
  | .refused r => .refused r

/-- A state in which the next step fetches `w` and runs it: the host's `writeMemory` at the pc, with the engine not stopped
(assumption 16). -/
def State.withWordAtPc (s : State) (w : Word) : State :=
  { s.store s.pc w with running := true, faultLatch := none }

end Sys2Proof.Machine
end

