-- ==== Sys2Proof/Machine/Step.lean ====
section
/-! DEFINITION. The step of the machine, and where the host puts a word for the next step to fetch. -/

namespace Sys2Proof.Machine

/-- R90: one step. The outcome the spec's `step()` returns beside the state is `engineStep`'s second part. -/
def step (s : State) : Host.Outcome State Fault Refusal := stateOf (engineStep s)

/-- `s` with the instruction of `nbits` bits `w` where step fetches next: at the pc (R90). An instruction is one 16-bit word
(R80); the bits above `nbits` are zero. -/
def State.withFetchWord (s : State) (nbits w : Nat) : State :=
  s.withWordAtPc (BitVec.ofNat 16 (w % 2 ^ nbits))

end Sys2Proof.Machine
end

