-- ==== Sys2Proof/Machine/HostInterface.lean ====
section
/-! DEFINITION. The operations the CORE offers its host between steps (60_exceptions.md R270, R275 to R277; 20_memory.md R54;
70_reset_and_hazards.md R303). Register and address arguments are typed (D18), and every operation is allowed in every
status (D17). -/

namespace Sys2Proof.Machine

/-- R275 `readMemory(a)`. -/
def readMemory (s : State) (a : Word) : Word := s.load a

/-- R275 `writeMemory(a, v)`: flags unchanged. -/
def writeMemory (s : State) (a v : Word) : State := s.store a v

/-- R275 `readRegister(i)`. -/
def readRegister (s : State) (i : RegIdx) : Word := s.readReg i

/-- R275 `writeRegister(i, v)`: the register-write path, so the flags are set too (R22). -/
def writeRegister (s : State) (i : RegIdx) (v : Word) : State := s.writeReg i v

/-- R275 `getFlags()`: three bits, N high. -/
def getFlags (s : State) : BitVec 3 := s.flags.toBits

/-- R275 `setPC(a)`. -/
def setPC (s : State) (a : Word) : State := s.jump a

/-- R275 `setSupervisor(b)`. -/
def setSupervisor (s : State) (b : Bool) : State := { s with supervisor := b }

/-- R275: what the status outputs show. -/
structure StatusOutputs where
  status : Status
  pc : Word
  supervisor : Bool
  running : Bool
  processed : Nat
  faultRecord : Option FaultRecord
  /-- R250: the cause code of the recorded fault -/
  causeCode : Option Nat
  /-- R34: "the rejected opcode name" -/
  rejectedOpcode : Option String
deriving DecidableEq, Repr

/-- R275: the status outputs; reading them changes nothing. -/
def statusOutputs (s : State) : StatusOutputs where
  status := s.status
  pc := s.pc
  supervisor := s.supervisor
  running := s.running
  processed := s.processed
  faultRecord := s.faultLatch
  causeCode := s.faultLatch.map (fun r => r.kind.code)
  rejectedOpcode := s.faultLatch.map (fun r => r.opcode.name)

/-- R270 `run()`, under fuel (assumption 10): steps are taken until one returns Halted, Fault or NoEffect, whose outcome
is returned. An outcome Completed says that the fuel ran out, which is no end of a run (D19). -/
def run : Nat → State → Host.Outcome (State × StepOutcome) Fault Refusal
  | 0, s => .next (s, .completed)
  | k + 1, s =>
    match engineStep s with
    | .next (t, .completed) => run k t
    | .next (t, o) => .next (t, o)
    | .fault f => .fault f
    | .refused r => .refused r

/-! ## The boundary format of a word (R54) and the load image (R277) -/

/-- R54: a word as 16 characters '0' or '1', "most-significant bit first". -/
def wordToLine (w : Word) : List Char :=
  (List.range 16).map (fun j => if w.getLsbD (15 - j) then '1' else '0')

/-- One character of a line as a bit. -/
def bitOfChar (c : Char) : Option Bool :=
  if c = '1' then some true else if c = '0' then some false else none

/-- The characters read as bits, the first the most significant, after the bits already read into `acc`. -/
def readBits : List Char → Nat → Option Nat
  | [], acc => some acc
  | c :: rest, acc =>
    match bitOfChar c with
    | some b => readBits rest (2 * acc + b.toNat)
    | none => none

/-- R54, R279: the word of a line; none for a line that is not 16 characters '0' or '1' (93 I4). -/
def lineToWord (line : List Char) : Option Word :=
  if line.length = 16 then (readBits line 0).map (BitVec.ofNat 16) else none

/-- Every line of an image as a word, or none: words are validated before any is placed (R279). -/
def linesToWords : List (List Char) → Option (List Word)
  | [] => some []
  | l :: rest =>
    match lineToWord l, linesToWords rest with
    | some w, some ws => some (w :: ws)
    | _, _ => none

/-- R277: the words placed at consecutive addresses from `a`, modulo 2^16. -/
def writeWords (s : State) (a : Word) : List Word → State
  | [] => s
  | w :: rest => writeWords (writeMemory s a w) (a + 1) rest

/-- R277, in terms of the interface: `writeMemory` of each word from the start address, then `setPC(start)`. -/
def loadWords (s : State) (start : Word) (words : List Word) : State :=
  setPC (writeWords s start words) start

/-- R277: the load image. Its first line is the start address (sign-extending it changes no address modulo 2^16: D11), each
further line a word. A malformed or empty image is refused (93 I4, assumption 11). -/
def loadImage (s : State) (image : List (List Char)) : Host.Outcome State Fault Refusal :=
  match linesToWords image with
  | some (start :: words) => .next (loadWords s start words)
  | _ => .refused .malformedImage

/-! ## What the host does between steps (R276) -/

/-- R275: the operations of the host. -/
inductive HostOp where
  | readMemory (a : Word)
  | writeMemory (a v : Word)
  | readRegister (i : RegIdx)
  | writeRegister (i : RegIdx) (v : Word)
  | getFlags
  /-- `step()` -/
  | step
  /-- `run()` of which `fuel` steps are observed -/
  | run (fuel : Nat)
  | setPC (a : Word)
  | setSupervisor (b : Bool)
  /-- the status outputs are read -/
  | readStatus
deriving DecidableEq, Repr

/-- R275: what an operation returns to the host. -/
inductive HostReply where
  /-- an operation without a result has returned -/
  | done
  /-- `readMemory`, `readRegister` -/
  | word (w : Word)
  /-- `getFlags` -/
  | flags (b : BitVec 3)
  /-- `step` and `run`: the outcome they return -/
  | outcome (o : StepOutcome)
  /-- the status outputs -/
  | status (x : StatusOutputs)
  /-- `run()` is still in progress after its observed steps: it has returned nothing (D19, assumption 10) -/
  | pending
deriving DecidableEq, Repr

/-- R270: what `run()` has returned after its observed steps. It never returns Completed, which says that every step so far
completed and the next is still to come. -/
def runReply : StepOutcome → HostReply
  | .completed => .pending
  | .halted => .outcome .halted
  | .fault k => .outcome (.fault k)
  | .noEffect => .outcome .noEffect

/-- R275, R276: one host operation, indivisible, with what it returns. -/
def HostOp.apply (op : HostOp) (s : State) : Host.Outcome (State × HostReply) Fault Refusal :=
  match op with
  | .readMemory a => .next (s, .word (Machine.readMemory s a))
  | .writeMemory a v => .next (Machine.writeMemory s a v, .done)
  | .readRegister i => .next (s, .word (Machine.readRegister s i))
  | .writeRegister i v => .next (Machine.writeRegister s i v, .done)
  | .getFlags => .next (s, .flags (Machine.getFlags s))
  | .step =>
    match engineStep s with
    | .next (t, o) => .next (t, .outcome o)
    | .fault f => .fault f
    | .refused r => .refused r
  | .run fuel =>
    match Machine.run fuel s with
    | .next (t, o) => .next (t, runReply o)
    | .fault f => .fault f
    | .refused r => .refused r
  | .setPC a => .next (Machine.setPC s a, .done)
  | .setSupervisor b => .next (Machine.setSupervisor s b, .done)
  | .readStatus => .next (s, .status (statusOutputs s))

/-- R276, R303: the host's operations, one after another, with what each returned. "While `run()` is in progress the host does
nothing until it returns": a run that is still pending ends the observed session, and no later operation acts. A
launch state is what a session without `step` and `run` makes of the state at construction. -/
def session : List HostOp → State → Host.Outcome (State × List HostReply) Fault Refusal
  | [], s => .next (s, [])
  | op :: rest, s =>
    match op.apply s with
    | .next (t, r) =>
      if r = .pending then .next (t, [.pending])
      else
        match session rest t with
        | .next (u, rs) => .next (u, r :: rs)
        | .fault f => .fault f
        | .refused x => .refused x
    | .fault f => .fault f
    | .refused r => .refused r

end Sys2Proof.Machine
end

