-- ==== Sys2Proof/Safety.lean ====
section
/-! DEFINITION. The terms the statements use: what an instruction leaves unchanged (its frame), what it writes, what a legal
flag register is, and the invariants of the machine. -/

namespace Sys2Proof.Machine

/-! ## Frames -/

/-- Supervisor mode, the halt flag, the instruction count and the fault latch are unchanged (10_state.md R29, R31, R32,
R34). -/
def SameControl (s t : State) : Prop :=
  t.supervisor = s.supervisor ∧ t.running = s.running ∧ t.processed = s.processed ∧ t.faultLatch = s.faultLatch

/-- Every general register is unchanged. -/
def SameRegs (s t : State) : Prop := ∀ r, t.readReg r = s.readReg r

/-- Every word of memory reads as before. -/
def SameMemory (s t : State) : Prop := ∀ a, t.load a = s.load a

/-- R23: the flags say the sign of `v` as a two's-complement number, and exactly one is set. -/
def SignFlags (v : Word) (f : Flags) : Prop :=
  (f.n = true ↔ v.toInt < 0) ∧ (f.z = true ↔ v.toInt = 0) ∧ (f.p = true ↔ 0 < v.toInt)

/-- `t` is `s` with register `d` holding `v` and the flags set from `v`, and nothing else changed (R22). -/
structure WritesReg (d : RegIdx) (v : Word) (s t : State) : Prop where
  value : t.readReg d = v
  others : ∀ r, r ≠ d → t.readReg r = s.readReg r
  flags : SignFlags v t.flags
  pc : t.pc = s.pc
  control : SameControl s t
  memory : SameMemory s t

/-- `t` is `s` with the word at address `a` replaced by `v`, and nothing else changed (R52). -/
structure StoresWord (a v : Word) (s t : State) : Prop where
  value : t.load a = v
  others : ∀ b, b ≠ a → t.load b = s.load b
  regs : SameRegs s t
  flags : t.flags = s.flags
  pc : t.pc = s.pc
  control : SameControl s t

/-- `t` is `s` with the pc at `target`, and nothing else changed (R27). -/
structure JumpsTo (target : Word) (s t : State) : Prop where
  pc : t.pc = target
  regs : SameRegs s t
  flags : t.flags = s.flags
  control : SameControl s t
  memory : SameMemory s t

/-! ## Flags -/

/-- R24: "never more than one flag set". -/
def Flags.atMostOne (f : Flags) : Bool := !(f.n && f.z) && !(f.n && f.p) && !(f.z && f.p)

/-- R24: no flag is set, as at construction. -/
def Flags.allClear (f : Flags) : Bool := !f.n && !f.z && !f.p

/-! ## Invariants -/

/-- What holds of every state the engine and the host can bring about. -/
structure State.HostInv (s : State) : Prop where
  /-- memory is in its canonical form -/
  memory : s.mem.wf
  /-- R24: never more than one flag -/
  oneFlag : s.flags.atMostOne = true
  /-- R24: "never zero flags set after at least one register write": with no flag set, no register has been written, so
  each still holds its construction value -/
  unwritten : s.flags.allClear = true → ∀ r, s.readReg r = 0x0000
  /-- R31, R32: only a completed TRAP clears `running`, and it was counted -/
  haltCounted : s.running = false → 0 < s.processed

/-- R34, R250, R254: the record says which instruction faulted, where, and why. -/
structure FaultRecord.Fits (r : FaultRecord) (s : State) : Prop where
  /-- precise: the pc is the faulting instruction's address -/
  address : r.address = s.pc
  /-- nothing was written after the fetch -/
  word : r.word = s.load r.address
  /-- a fault does not clear `running` -/
  running : s.running = true
  /-- R250: the two causes -/
  cause : (r.kind = .decodeError ∧ r.opcode = .invalid ∧ opcodeField r.word = opcodeBits .invalid) ∨
    (r.kind = .privilegeError ∧ r.opcode = .rti ∧ opcodeField r.word = opcodeBits .rti ∧ s.supervisor = false)

/-- The invariant of the engine: between two host operations, a Faulted engine still shows its fault. (The host may move the
pc, write memory or set the mode afterwards, so this second part is not a part of `HostInv`.) -/
structure State.Inv (s : State) : Prop extends s.HostInv where
  latch : ∀ r, s.faultLatch = some r → r.Fits s

/-- A safe run so far: no fault is recorded (R254). -/
def State.safe (s : State) : Bool := s.faultLatch.isNone

end Sys2Proof.Machine
end

