-- ==== Sys2Proof/Certificates/Slice0/Obligations.lean ====
section
/-! DEFINITION. The statements for the provers. Each docstring names the rule of spec/ it formalises. A statement marked
`derived` in OBLIGATIONS.json rests on a decision of the spec or on the model's own form, which its docstring names. -/

open Sys2Proof Sys2Proof.Machine

/-! ## Encoding (30_encoding.md) -/

/-- R83, R88: no bit of an encoding is dropped, for every instruction and every value of its operands. -/
def Obligations.DecodeEncodeRoundTrip : Prop :=
  ∀ i : Instr, decode (encode i) = i

/-- R83, R84 (D1 to D3: log entries 1 to 3), the other direction. The encoding of what a word decodes to differs from the word in
don't-care bits only. The last clause, that RTI and INVALID re-encode to the very same word, is the model's own choice (log
entry 3): it keeps their 12 ignored bits because a fault record shows the word, where R84 alone lets any value decode to the
same instruction. -/
def Obligations.EncodeDecodeKeepsEveryReadBit : Prop :=
  ∀ w : Word, ∃ r ∈ opcodeTable, r.admits w = true ∧ r.mnemonic = (decode w).mnemonic ∧
    (encode (decode w) ^^^ w) &&& ~~~r.ignored = 0 ∧
    (r.mnemonic = "RTI" ∨ r.mnemonic = "INVALID" → encode (decode w) = w)

/-- R84 (decision D3): a word that differs from `w` in the don't-care bits of `w`'s row decodes to the same instruction. RTI and
INVALID keep the ignored bits for their fault record: `IgnoredBitsShowOnlyInTheFaultRecord`. -/
def Obligations.DontCareBitsAreIgnored : Prop :=
  ∀ (w v : Word) (r : TableRow), r ∈ opcodeTable → r.admits w = true → (w ^^^ v) &&& ~~~r.ignored = 0 →
    r.mnemonic ≠ "RTI" → r.mnemonic ≠ "INVALID" → decode v = decode w

/-- R84 for the two rows that can fault: with the same ignored bits or with others, the effect is the same but for the word
in the fault record (R34). -/
def Obligations.IgnoredBitsShowOnlyInTheFaultRecord : Prop :=
  ∀ (x y : BitVec 12) (s : State),
    (s.supervisor = true → ∃ t, exec (.rti x) s = .next t ∧ exec (.rti y) s = .next t) ∧
    (s.supervisor = false → ∃ (t : State) (r : FaultRecord), exec (.rti x) s = .next { t with faultLatch := some { r with word := encode (.rti x) } } ∧
      exec (.rti y) s = .next { t with faultLatch := some { r with word := encode (.rti y) } }) ∧
    (∃ (t : State) (r : FaultRecord), exec (.invalid x) s = .next { t with faultLatch := some { r with word := encode (.invalid x) } } ∧
      exec (.invalid y) s = .next { t with faultLatch := some { r with word := encode (.invalid y) } })

/-- R89: every word matches exactly one row of the table, and it is the row of the instruction it decodes to. -/
def Obligations.EveryWordMatchesOnlyItsRow : Prop :=
  ∀ w : Word, (opcodeTable.filter (fun r => r.admits w)).map (fun r => r.mnemonic) = [(decode w).mnemonic]

/-- R85: "The only illegal encodings are the 4096 words with opcode 1101 (0xD000-0xDFFF)". The opcode value rests on D1. -/
def Obligations.IllegalWordsAreD000ToDFFF : Prop :=
  ∀ w : Word, (decode w).wellFormed = false ↔ 0xD000 ≤ w.toNat ∧ w.toNat ≤ 0xDFFF

/-- R82, R83: the words the spec's rules write out as examples (R121 to R123, R150 to R153, R180 to R186, R220 to R222) decode to
the instruction they stand for. The opcode values are D1 (log entry 1), the bit positions D2 (log entry 2). -/
def Obligations.SpecExampleWordsDecode : Prop :=
  decode 0x1401 = .add 2 0 1 ∧ decode 0x5642 = .and 3 1 2 ∧ decode 0x997F = .not 4 5 ∧
  decode 0x05FD = .br 0b010 0x1FD ∧ decode 0xC0C0 = .jmp 3 ∧ decode 0x4805 = .jsr 5 ∧ decode 0x4080 = .jsrr 2 ∧
  decode 0x2202 = .ld 1 2 ∧ decode 0xA400 = .ldi 2 0 ∧ decode 0x673F = .ldr 3 4 0x3F ∧ decode 0xEA00 = .lea 5 0 ∧
  decode 0x33FF = .st 1 0x1FF ∧ decode 0xB401 = .sti 2 1 ∧ decode 0x773F = .str 3 4 0x3F ∧
  decode 0x8000 = .rti 0 ∧ decode 0xF025 = .trap 0x25 ∧ decode 0xD000 = .invalid 0

/-- R83, R88, R121 to R123: the fields of the operate instructions (opcode values D1, positions D2, ignored bits D3). -/
def Obligations.DecodeReadsOperateFields : Prop :=
  ∀ w : Word,
    (w.extractLsb' 12 4 = 0b0001#4 → w.getLsbD 5 = false →
      decode w = .add (w.extractLsb' 9 3) (w.extractLsb' 6 3) (w.extractLsb' 0 3)) ∧
    (w.extractLsb' 12 4 = 0b0001#4 → w.getLsbD 5 = true →
      decode w = .addi (w.extractLsb' 9 3) (w.extractLsb' 6 3) (w.extractLsb' 0 5)) ∧
    (w.extractLsb' 12 4 = 0b0101#4 → w.getLsbD 5 = false →
      decode w = .and (w.extractLsb' 9 3) (w.extractLsb' 6 3) (w.extractLsb' 0 3)) ∧
    (w.extractLsb' 12 4 = 0b0101#4 → w.getLsbD 5 = true →
      decode w = .andi (w.extractLsb' 9 3) (w.extractLsb' 6 3) (w.extractLsb' 0 5)) ∧
    (w.extractLsb' 12 4 = 0b1001#4 → decode w = .not (w.extractLsb' 9 3) (w.extractLsb' 6 3))

/-- R83, R88, R150 to R153, R220 to R222: the fields of the control transfers and of TRAP (D1, D2, D3: log entries 1 to 3). That RTI
and INVALID keep bits [11:0] is the model's own choice (log entry 3): R83 marks them x and R84 only says that they are
ignored. -/
def Obligations.DecodeReadsControlAndSystemFields : Prop :=
  ∀ w : Word,
    (w.extractLsb' 12 4 = 0b0000#4 → decode w = .br (w.extractLsb' 9 3) (w.extractLsb' 0 9)) ∧
    (w.extractLsb' 12 4 = 0b1100#4 → decode w = .jmp (w.extractLsb' 6 3)) ∧
    (w.extractLsb' 12 4 = 0b0100#4 → w.getLsbD 11 = true → decode w = .jsr (w.extractLsb' 0 11)) ∧
    (w.extractLsb' 12 4 = 0b0100#4 → w.getLsbD 11 = false → decode w = .jsrr (w.extractLsb' 6 3)) ∧
    (w.extractLsb' 12 4 = 0b1000#4 → decode w = .rti (w.extractLsb' 0 12)) ∧
    (w.extractLsb' 12 4 = 0b1111#4 → decode w = .trap (w.extractLsb' 0 8)) ∧
    (w.extractLsb' 12 4 = 0b1101#4 → decode w = .invalid (w.extractLsb' 0 12))

/-- R83, R180 to R186: the fields of the loads, stores and LEA (D1, D2). -/
def Obligations.DecodeReadsLoadStoreFields : Prop :=
  ∀ w : Word,
    (w.extractLsb' 12 4 = 0b0010#4 → decode w = .ld (w.extractLsb' 9 3) (w.extractLsb' 0 9)) ∧
    (w.extractLsb' 12 4 = 0b1010#4 → decode w = .ldi (w.extractLsb' 9 3) (w.extractLsb' 0 9)) ∧
    (w.extractLsb' 12 4 = 0b0110#4 →
      decode w = .ldr (w.extractLsb' 9 3) (w.extractLsb' 6 3) (w.extractLsb' 0 6)) ∧
    (w.extractLsb' 12 4 = 0b1110#4 → decode w = .lea (w.extractLsb' 9 3) (w.extractLsb' 0 9)) ∧
    (w.extractLsb' 12 4 = 0b0011#4 → decode w = .st (w.extractLsb' 9 3) (w.extractLsb' 0 9)) ∧
    (w.extractLsb' 12 4 = 0b1011#4 → decode w = .sti (w.extractLsb' 9 3) (w.extractLsb' 0 9)) ∧
    (w.extractLsb' 12 4 = 0b0111#4 →
      decode w = .str (w.extractLsb' 9 3) (w.extractLsb' 6 3) (w.extractLsb' 0 6))

/-! ## Registers, flags, memory, operands -/

/-- R23: setcc gives exactly one set bit, N for a negative value, Z for zero, P for a positive one. -/
def Obligations.SetccGivesTheSignAsOneFlag : Prop :=
  ∀ v : Word,
    (v.getLsbD 15 = true → setcc v = ⟨true, false, false⟩ ∧ v.toInt < 0) ∧
    (v = 0x0000 → setcc v = ⟨false, true, false⟩ ∧ v.toInt = 0) ∧
    (v.getLsbD 15 = false → v ≠ 0x0000 → setcc v = ⟨false, false, true⟩ ∧ 0 < v.toInt)

/-- R22: every register write goes through one path, which sets the register and the flags; the instructions that take it are
ADD, AND, NOT, LD, LDI, LDR, LEA, and the host's writeRegister takes it too. Any other instruction writes neither. -/
def Obligations.RegisterWritePath : Prop :=
  (∀ (s : State) (d : RegIdx) (v : Word), WritesReg d v s (s.writeReg d v)) ∧
  (∀ (s : State) (d : RegIdx) (v : Word), writeRegister s d v = s.writeReg d v) ∧
  (∀ (i : Instr) (s t : State), exec i s = .next t →
    (i.opcode ∈ [Opcode.add, .and, .not, .ld, .ldi, .ldr, .lea] → ∃ d v, t = s.writeReg d v) ∧
    (i.opcode ∉ [Opcode.add, .and, .not, .ld, .ldi, .ldr, .lea] → SameRegs s t ∧ t.flags = s.flags))

/-- R25: BR alone reads the flags. Any other instruction run with other flags ends in the same state, but that one which writes
no register leaves the flags it was given; BR itself leaves them too. -/
def Obligations.FlagsAreReadByBrOnly : Prop :=
  ∀ (i : Instr) (s t : State) (f : Flags), exec i s = .next t →
    (i.opcode = .br → t.flags = s.flags) ∧
    (i.opcode ∈ [Opcode.add, .and, .not, .ld, .ldi, .ldr, .lea] → exec i { s with flags := f } = .next t) ∧
    (i.opcode ∈ [Opcode.jmp, .jsr, .st, .sti, .str, .rti, .trap, .invalid] →
      exec i { s with flags := f } = .next { t with flags := f })

/-- R52: a memory write replaces the word at its address and changes nothing else. -/
def Obligations.MemoryWriteReplacesOneWord : Prop :=
  ∀ (s : State) (a v : Word), StoresWord a v s (writeMemory s a v)

/-- The model's own form of memory (assumption 14): canonical memories that read the same at every address are equal, so an
equality of states says no more and no less than R50's 65536 words. -/
def Obligations.CanonicalMemoriesThatReadAlikeAreEqual : Prop :=
  ∀ m n : Memory, m.wf → n.wf → (∀ a : Word, m.read a = n.read a) → m = n

/-- R10: sign extension copies the field's leading bit into all higher bits, zero extension fills them with 0. -/
def Obligations.SignAndZeroExtension : Prop :=
  ∀ (k : Nat) (f : BitVec k) (j : Nat), 0 < k → k ≤ 16 → j < 16 →
    (sext16 f).getLsbD j = (if j < k then f.getLsbD j else f.getLsbD (k - 1)) ∧
    (zext16 f).getLsbD j = (if j < k then f.getLsbD j else false)

/-- R87: the value each immediate has after its extension, and its range: imm5, offset6 of LDR (the model's `baseSigned`),
offset9 and offset11 keep their signed value, offset6 of STR (`baseUnsigned`) its unsigned one. That STR's is unsigned is log
entry 9. -/
def Obligations.ImmediatesKeepTheirValue : Prop :=
  (∀ f : BitVec 5, (sext16 f).toInt = f.toInt ∧ -16 ≤ f.toInt ∧ f.toInt ≤ 15) ∧
  (∀ (f : BitVec 6) (b : RegIdx) (s : State), (s.baseSigned b f - s.readReg b).toInt = f.toInt ∧
    -32 ≤ f.toInt ∧ f.toInt ≤ 31) ∧
  (∀ (f : BitVec 6) (b : RegIdx) (s : State), (extendOffset6 Config.strOffsetExt f).toNat = f.toNat ∧
    (s.baseUnsigned b f - s.readReg b).toNat = f.toNat ∧ f.toNat ≤ 63) ∧
  (∀ f : BitVec 9, (sext16 f).toInt = f.toInt ∧ -256 ≤ f.toInt ∧ f.toInt ≤ 255) ∧
  (∀ f : BitVec 11, (sext16 f).toInt = f.toInt ∧ -1024 ≤ f.toInt ∧ f.toInt ≤ 1023)

/-- R53, R186, R187: every effective address is the sum R187 gives, computed in 16 bits, and wraps; no address computation faults:
every load, store and LEA answers a next state in every state. That STR's offset is unsigned is 90_conflicts.md C6 (log
entry 9). -/
def Obligations.EffectiveAddressesWrap : Prop :=
  (∀ (s : State) (o : BitVec 9), ((s.pcRelative o).toNat : Int) = ((s.pc.toNat : Int) + o.toInt) % 65536) ∧
  (∀ (s : State) (b : RegIdx) (o : BitVec 6),
    ((s.baseSigned b o).toNat : Int) = (((s.readReg b).toNat : Int) + o.toInt) % 65536) ∧
  (∀ (s : State) (b : RegIdx) (o : BitVec 6),
    (s.baseUnsigned b o).toNat = ((s.readReg b).toNat + o.toNat) % 65536) ∧
  (∀ (i : Instr) (s : State), i.opcode ∈ [Opcode.ld, .ldi, .ldr, .lea, .st, .sti, .str] → ∃ t, exec i s = .next t)

/-! ## Operate instructions (40_operate.md) -/

/-- R121, both modes: DR gets the sum modulo 2^16 of the sources as they were before the write, the flags its sign; nothing else
changes. -/
def Obligations.AddWritesTheSum : Prop :=
  (∀ (dr sr1 sr2 : RegIdx) (s : State), ∃ t, exec (.add dr sr1 sr2) s = .next t ∧
    WritesReg dr (BitVec.ofNat 16 ((s.readReg sr1).toNat + (s.readReg sr2).toNat)) s t) ∧
  (∀ (dr sr1 : RegIdx) (imm5 : BitVec 5) (s : State), ∃ t, exec (.addi dr sr1 imm5) s = .next t ∧
    WritesReg dr (BitVec.ofInt 16 ((s.readReg sr1).toNat + imm5.toInt)) s t)

/-- R122, both modes: DR gets the bitwise AND of the sources, the flags its sign; nothing else changes. -/
def Obligations.AndWritesTheConjunction : Prop :=
  (∀ (dr sr1 sr2 : RegIdx) (s : State), ∃ t v, exec (.and dr sr1 sr2) s = .next t ∧ WritesReg dr v s t ∧
    ∀ j < 16, v.getLsbD j = ((s.readReg sr1).getLsbD j && (s.readReg sr2).getLsbD j)) ∧
  (∀ (dr sr1 : RegIdx) (imm5 : BitVec 5) (s : State), ∃ t v, exec (.andi dr sr1 imm5) s = .next t ∧ WritesReg dr v s t ∧
    ∀ j < 16, v.getLsbD j = ((s.readReg sr1).getLsbD j && imm5.getLsbD (min j 4)))

/-- R123: DR gets the complement of all 16 bits of SR, the flags its sign; nothing else changes. -/
def Obligations.NotWritesTheComplement : Prop :=
  ∀ (dr sr : RegIdx) (s : State), ∃ t v, exec (.not dr sr) s = .next t ∧ WritesReg dr v s t ∧
    ∀ j < 16, v.getLsbD j = !(s.readReg sr).getLsbD j

/-! ## Loads, stores, LEA (42_load_store.md) -/

/-- R180, R181, R182, R187: DR gets the word at the effective address (LDI: at the address the pointer word holds; LDR: the base
register's old value plus a signed offset), the flags its sign; nothing else changes. -/
def Obligations.LoadsWriteTheWordAtTheirAddress : Prop :=
  (∀ (dr : RegIdx) (o : BitVec 9) (s : State), ∃ t, exec (.ld dr o) s = .next t ∧
    WritesReg dr (s.load (s.pc + o.signExtend 16)) s t) ∧
  (∀ (dr : RegIdx) (o : BitVec 9) (s : State), ∃ t, exec (.ldi dr o) s = .next t ∧
    WritesReg dr (s.load (s.load (s.pc + o.signExtend 16))) s t) ∧
  (∀ (dr baseR : RegIdx) (o : BitVec 6) (s : State), ∃ t, exec (.ldr dr baseR o) s = .next t ∧
    WritesReg dr (s.load (s.readReg baseR + o.signExtend 16)) s t)

/-- R183: LEA writes the pc-relative address itself and, in this hardware, the flags (90_conflicts.md C4); it reads no memory,
so two states that differ in memory alone get the same register. -/
def Obligations.LeaWritesTheAddressAndTheFlags : Prop :=
  ∀ (dr : RegIdx) (o : BitVec 9) (s : State) (m : Memory),
    ∃ t, exec (.lea dr o) s = .next t ∧ WritesReg dr (s.pc + o.signExtend 16) s t ∧
      exec (.lea dr o) { s with mem := m } = .next { t with mem := m }

/-- R184, R185, R61: ST stores SR at the pc-relative address, STI at the address that the pointer word there held before the
write; every other word, every register and the flags are unchanged. -/
def Obligations.StAndStiStoreAtTheirAddress : Prop :=
  ∀ (sr : RegIdx) (o : BitVec 9) (s : State),
    (∃ t, exec (.st sr o) s = .next t ∧ StoresWord (s.pc + o.signExtend 16) (s.readReg sr) s t) ∧
    (∃ t, exec (.sti sr o) s = .next t ∧ StoresWord (s.load (s.pc + o.signExtend 16)) (s.readReg sr) s t)

/-- R186: STR stores SR at base plus the offset read as an unsigned number 0..63 (90_conflicts.md C6), modulo 2^16. -/
def Obligations.StrStoresAtTheUnsignedOffset : Prop :=
  ∀ (sr baseR : RegIdx) (o : BitVec 6) (s : State), ∃ t, exec (.str sr baseR o) s = .next t ∧
    StoresWord (BitVec.ofNat 16 ((s.readReg baseR).toNat + o.toNat)) (s.readReg sr) s t

/-! ## Control transfers (41_control.md). `s.pc` is the instruction's address plus 1 (R12). -/

/-- R150 (flag pairing D15): BR jumps exactly when a flag its mask names is set, and writes nothing but the pc. -/
def Obligations.BrJumpsWhenANamedFlagIsSet : Prop :=
  ∀ (nzp : BitVec 3) (o : BitVec 9) (s : State), ∃ t, exec (.br nzp o) s = .next t ∧
    JumpsTo (if (nzp.getLsbD 2 && s.flags.n) || (nzp.getLsbD 1 && s.flags.z) || (nzp.getLsbD 0 && s.flags.p)
      then s.pc + o.signExtend 16 else s.pc) s t

/-- R151, R153: JMP and JSRR load the pc from the base register and write nothing else: no return address is saved. -/
def Obligations.JmpAndJsrrGoToTheBaseRegister : Prop :=
  ∀ (baseR : RegIdx) (s : State),
    (∃ t, exec (.jmp baseR) s = .next t ∧ JumpsTo (s.readReg baseR) s t) ∧
    (∃ t, exec (.jsrr baseR) s = .next t ∧ JumpsTo (s.readReg baseR) s t)

/-- R152: JSR adds its signed offset to the pc and writes nothing else: R7 keeps its value. -/
def Obligations.JsrMovesThePcAndSavesNoLink : Prop :=
  ∀ (o : BitVec 11) (s : State), ∃ t, exec (.jsr o) s = .next t ∧ JumpsTo (s.pc + o.signExtend 16) s t

/-! ## System instructions and exceptions (43_system.md, 60_exceptions.md) -/

/-- R257: TRAP is no trap entry, whatever its vector: it saves no state, changes no mode and transfers control nowhere. -/
def Obligations.TrapIsNoTrapEntry : Prop :=
  ∀ (v : BitVec 8) (s : State), ∃ t, exec (.trap v) s = .next t ∧ SameRegs s t ∧ SameMemory s t ∧ t.flags = s.flags ∧
    t.supervisor = s.supervisor ∧ t.pc = s.pc ∧ t.faultLatch = s.faultLatch ∧ t.processed = s.processed

/-- R221: vector x25 clears `running`; every other vector, the recognised x20 to x24 among them, changes nothing. -/
def Obligations.TrapHaltsOnVector25Only : Prop :=
  ∀ (v : BitVec 8) (s : State),
    (v = 0x25 → exec (.trap v) s = .next { s with running := false }) ∧ (v ≠ 0x25 → exec (.trap v) s = .next s)

/-- R251: the halting TRAP completes normally, sets `running` to 0 and ends the run with the outcome Halted; it is no
exception. -/
def Obligations.HaltIsNoException : Prop :=
  ∀ (s : State), s.stopped = false → s.nextInstr = .trap 0x25 →
    ∃ t, engineStep s = .next (t, .halted) ∧ t.running = false ∧ t.faultLatch = none ∧ t.processed = s.processed + 1 ∧
      ∀ fuel, run (fuel + 1) s = .next (t, .halted)

/-- R220: in supervisor mode RTI has no effect at all (the pc advance and the count are the engine's). -/
def Obligations.RtiHasNoEffectInSupervisorMode : Prop :=
  ∀ (x : BitVec 12) (s : State), s.supervisor = true → exec (.rti x) s = .next s

/-- R220, R254 (FAULT_PC precise: D6; record: D7): in user mode RTI raises PrivilegeError: the record holds the instruction's
address and word, the pc goes back to that address, and nothing else changes. -/
def Obligations.RtiTrapsInUserMode : Prop :=
  ∀ (x : BitVec 12) (s : State), s.supervisor = false → ∃ t, exec (.rti x) s = .next t ∧
    t.faultLatch = some ⟨.privilegeError, .rti, s.pc - 1, encode (.rti x)⟩ ∧ t.pc = s.pc - 1 ∧ SameRegs s t ∧
    SameMemory s t ∧ t.flags = s.flags ∧ t.supervisor = s.supervisor ∧ t.running = s.running ∧ t.processed = s.processed

/-- R222, R254 (D6, D7): INVALID raises DecodeError in either mode, and nothing but the pc and the fault latch changes. -/
def Obligations.InvalidRaisesDecodeError : Prop :=
  ∀ (x : BitVec 12) (s : State), ∃ t, exec (.invalid x) s = .next t ∧
    t.faultLatch = some ⟨.decodeError, .invalid, s.pc - 1, encode (.invalid x)⟩ ∧ t.pc = s.pc - 1 ∧ SameRegs s t ∧
    SameMemory s t ∧ t.flags = s.flags ∧ t.supervisor = s.supervisor ∧ t.running = s.running ∧ t.processed = s.processed

/-- R223, R260: the mode gates RTI alone. Any other instruction runs identically in both modes, whatever it reads or stores. -/
def Obligations.OnlyRtiReadsTheMode : Prop :=
  ∀ (i : Instr) (s t : State) (b : Bool), i.opcode ≠ .rti → exec i s = .next t →
    exec i { s with supervisor := b } = .next { t with supervisor := b }

/-! ## The engine (30_encoding.md, 60_exceptions.md) -/

/-- R90: an engine that is neither Halted nor Faulted runs the instruction that the word at the pc decodes to, on the state with
the pc advanced, and counts it unless it raised a fault. -/
def Obligations.StepRunsTheDecodedInstruction : Prop :=
  ∀ (s t : State), s.faultLatch = none → s.running = true →
    exec (decode (s.load s.pc)) { s with pc := s.pc + 1 } = .next t →
    step s = .next (if t.faultLatch = none then { t with processed := t.processed + 1 } else t)

/-- Log entry 19 (deduced from R53, R55, R85, R250, R254, R271, R272): no step faults or is refused by the interface. An instruction
completes or leaves the state R254 gives, and a stopped engine leaves the state it was in (D5, D7: log entries 5 and 7). -/
def Obligations.EveryStateHasANextState : Prop :=
  ∀ s : State, ∃ t, step s = .next t

/-- R271, R272 (D5, D7): Halted and Faulted are absorbing: a step fetches nothing, changes nothing and returns NoEffect, and so
does run. -/
def Obligations.StoppedEngineDoesNothing : Prop :=
  ∀ s : State, s.faultLatch ≠ none ∨ s.running = false →
    engineStep s = .next (s, .noEffect) ∧ step s = .next s ∧ ∀ fuel, run (fuel + 1) s = .next (s, .noEffect)

/-- R254, R255 (D6, D7): a step that fetches an opcode 1101, or 1000 in user mode, leaves the state exactly as it was but for
the fault record, which holds the address and the fetched word. -/
def Obligations.FaultsArePrecise : Prop :=
  ∀ s : State, s.faultLatch = none → s.running = true →
    ((s.load s.pc).extractLsb' 12 4 = 0b1101#4 →
      step s = .next { s with faultLatch := some ⟨.decodeError, .invalid, s.pc, s.load s.pc⟩ }) ∧
    ((s.load s.pc).extractLsb' 12 4 = 0b1000#4 → s.supervisor = false →
      step s = .next { s with faultLatch := some ⟨.privilegeError, .rti, s.pc, s.load s.pc⟩ })

/-- R33, R92, R221, R250, R253: which of the outcomes a step of a live engine has, and the status it leaves. The outcomes exclude
each other, and without a fault or a halt the step completes. The outcome names are D9 (log entry 18), the opcode values D1
(log entry 1); that bits [11:8] of a TRAP do not count is D3 (log entry 3). -/
def Obligations.OutcomeAndStatusOfALiveStep : Prop :=
  ∀ s : State, s.stopped = false → ∃ t o, engineStep s = .next (t, o) ∧
    (o = .fault .decodeError ↔ (s.load s.pc).extractLsb' 12 4 = 0b1101#4) ∧
    (o = .fault .privilegeError ↔ (s.load s.pc).extractLsb' 12 4 = 0b1000#4 ∧ s.supervisor = false) ∧
    (o = .halted ↔ (s.load s.pc).extractLsb' 12 4 = 0b1111#4 ∧ (s.load s.pc).extractLsb' 0 8 = 0x25#8) ∧
    o ≠ .noEffect ∧
    (o = .completed → t.status = .running) ∧ (o = .halted → t.status = .halted) ∧
    (∀ k, o = .fault k → t.status = .faulted ∧ ∃ r, t.faultLatch = some r ∧ r.kind = k)

/-- R32, R262 (width D8): `processed` counts the completed instructions, the halting TRAP included, and nothing else. -/
def Obligations.ProcessedCountsCompletions : Prop :=
  ∀ (s t : State) (o : StepOutcome), engineStep s = .next (t, o) →
    t.processed = s.processed + (if o = .completed ∨ o = .halted then 1 else 0)

/-- R27: the engine adds 1 at every fetch, modulo 2^16; no completed instruction other than BR, JMP, JSR and JSRR moves the
pc otherwise. -/
def Obligations.PcAdvancesUnlessControlTransfers : Prop :=
  ∀ (s t : State), s.stopped = false → step s = .next t → t.faultLatch = none →
    s.nextInstr.opcode ∉ [Opcode.br, .jmp, .jsr] → t.pc.toNat = (s.pc.toNat + 1) % 65536

/-- R56, R57: a step whose instruction is not ST, STI or STR leaves every word of memory as it was. -/
def Obligations.OnlyStoresWriteMemory : Prop :=
  ∀ (s t : State), step s = .next t → s.nextInstr.opcode ∉ [Opcode.st, .sti, .str] → SameMemory s t

/-- R29, R261: no instruction and no fault enters or leaves a mode. -/
def Obligations.NoStepChangesTheMode : Prop :=
  ∀ (s t : State), step s = .next t → t.supervisor = s.supervisor

/-- R65: a store just ahead of the pc is what the next step fetches, whichever of ST, STI and STR stores it: the effective
address (R184, R185, R186, with the pc advanced: R12) is the address the next fetch reads. -/
def Obligations.StoreIsSeenByTheNextFetch : Prop :=
  ∀ (s t : State) (sr : RegIdx), s.stopped = false → step s = .next t →
    ((∃ o : BitVec 9, s.nextInstr = .st sr o ∧ s.pc + 1 + o.signExtend 16 = s.pc + 1) ∨
      (∃ o : BitVec 9, s.nextInstr = .sti sr o ∧ s.load (s.pc + 1 + o.signExtend 16) = s.pc + 1) ∨
      (∃ (b : RegIdx) (o : BitVec 6), s.nextInstr = .str sr b o ∧ s.readReg b + o.setWidth 16 = s.pc + 1)) →
    t.pc = s.pc + 1 ∧ t.fetch = s.readReg sr ∧ t.nextInstr = decode (s.readReg sr)

/-- R304: before the first register write no flag is set, so a BR of any mask falls through. -/
def Obligations.BrFallsThroughBeforeAnyRegisterWrite : Prop :=
  ∀ (s : State) (nzp : BitVec 3) (o : BitVec 9), s.stopped = false → s.flags.allClear = true →
    s.nextInstr = .br nzp o → step s = .next { s with pc := s.pc + 1, processed := s.processed + 1 }

/-- R24: once a flag is set, exactly one is, after every operation of the host and every step. -/
def Obligations.ExactlyOneFlagStaysSet : Prop :=
  ∀ (op : HostOp) (s t : State) (r : HostReply), s.flags.atMostOne = true → s.flags.allClear = false →
    op.apply s = .next (t, r) →
    t.flags.atMostOne = true ∧ t.flags.allClear = false

/-! ## Invariants -/

/-- R39, R300: the state at construction. The flags, `running` and the latch rest on D4, D5, D7 and `processed` on the
derivation of R32. -/
def Obligations.ConstructionState : Prop :=
  (∀ r, State.reset.readReg r = 0x0000) ∧ (∀ a, State.reset.load a = 0x0000) ∧ State.reset.pc = 0x0000 ∧
  State.reset.flags = ⟨false, false, false⟩ ∧ State.reset.supervisor = false ∧ State.reset.running = true ∧
  State.reset.processed = 0 ∧ State.reset.faultLatch = none ∧ State.reset.status = .idle

/-- R24, R39: the invariant (`State.Inv`) holds at construction. The canonical memory is the model's own form (log entry 14); the
flags, `running` and the latch at construction are D4, D5, D7 (log entries 4, 5, 7). -/
def Obligations.ConstructionMeetsTheInvariant : Prop :=
  State.reset.Inv

/-- From every state that meets it, a step keeps the invariant: canonical memory (the model's own form, log entry 14), at most one
flag, no flag only while no register has been written (R24), a halt that was counted (R31, R32), and a fault record that says
which instruction faulted and why (R34, R250, R254). That the record's address is the pc is FAULT_PC = precise (D6, log entry
6); that it holds the address and the word, with `running` left set, is D7 (log entry 7). -/
def Obligations.StepKeepsTheInvariant : Prop :=
  ∀ s t : State, s.Inv → step s = .next t → t.Inv

/-- From every state that meets it, every sequence of host operations (R275, R276) keeps the part of the invariant the host cannot
break: R24, R31, R32, and the canonical memory, which is the model's own form (log entry 14). setPC and setSupervisor are D10
(log entry 18). -/
def Obligations.SessionsKeepTheHostInvariant : Prop :=
  ∀ (ops : List HostOp) (s t : State) (rs : List HostReply), s.HostInv → session ops s = .next (t, rs) → t.HostInv

/-- R31, R34, R266, R272, R301 (D5, D7, D12: log entries 5, 7, 12): no sequence of host operations and steps clears a fault or
changes its record, or clears a halt; R32, R262 (width D8: log entry 8): none lowers the count. -/
def Obligations.NothingClearsAFaultOrAHalt : Prop :=
  ∀ (ops : List HostOp) (s t : State) (rs : List HostReply), session ops s = .next (t, rs) →
    (s.faultLatch ≠ none → t.faultLatch = s.faultLatch) ∧ (s.running = false → t.running = false) ∧
    s.processed ≤ t.processed

/-! ## The host interface (60_exceptions.md R270 to R277) -/

/-- R275 (D10, D15): what writeRegister, setPC, setSupervisor and getFlags do, and that they do nothing else. -/
def Obligations.HostOperationsDoWhatTheySay : Prop :=
  ∀ s : State,
    (∀ i v, WritesReg i v s (writeRegister s i v)) ∧ (∀ a, JumpsTo a s (setPC s a)) ∧
    (∀ b, (setSupervisor s b).supervisor = b ∧ SameRegs s (setSupervisor s b) ∧ SameMemory s (setSupervisor s b) ∧
      (setSupervisor s b).flags = s.flags ∧ (setSupervisor s b).pc = s.pc ∧ (setSupervisor s b).running = s.running ∧
      (setSupervisor s b).processed = s.processed ∧ (setSupervisor s b).faultLatch = s.faultLatch) ∧
    ((getFlags s).getLsbD 2 = s.flags.n ∧ (getFlags s).getLsbD 1 = s.flags.z ∧ (getFlags s).getLsbD 0 = s.flags.p)

/-- R270, D19: a run that has ended under some fuel ends in the same state with the same outcome under more. -/
def Obligations.RunEndsTheSameUnderMoreFuel : Prop :=
  ∀ (k m : Nat) (s t : State) (o : StepOutcome), run k s = .next (t, o) → o ≠ .completed → run (k + m) s = .next (t, o)

/-- R54: a line is the word's 16 bits, most significant first, and nothing else is accepted as that word. -/
def Obligations.BoundaryLinesAreWords : Prop :=
  (∀ (line : List Char) (w : Word), lineToWord line = some w ↔ line = wordToLine w) ∧
  (∀ (w : Word) (j : Nat), j < 16 → (wordToLine w)[j]? = some (if w.getLsbD (15 - j) then '1' else '0'))

/-- R277 (D11): loading an image places its words at consecutive addresses from the start, modulo 2^16, sets the pc to the start,
and changes nothing else. -/
def Obligations.LoadImagePlacesItsWords : Prop :=
  ∀ (s : State) (start : Word) (words : List Word), words.length ≤ 65536 →
    ∃ t, loadImage s ((start :: words).map wordToLine) = .next t ∧ t.pc = start ∧
      (∀ (j : Nat) (h : j < words.length), t.load (start + BitVec.ofNat 16 j) = words[j]) ∧
      (∀ a, (∀ j < words.length, a ≠ start + BitVec.ofNat 16 j) → t.load a = s.load a) ∧
      SameRegs s t ∧ t.flags = s.flags ∧ SameControl s t

/-- R279, 93 I4 (the empty image: assumption 11): exactly the malformed images are refused, before anything is placed. -/
def Obligations.MalformedImagesAreRefused : Prop :=
  ∀ (s : State) (image : List (List Char)),
    loadImage s image = .refused .malformedImage ↔
      image = [] ∨ ∃ line ∈ image, line.length ≠ 16 ∨ ∃ c ∈ line, c ≠ '0' ∧ c ≠ '1'

/-- R270, R92: run goes on from the state a Completed step left, and otherwise returns that step's state and outcome: Halted, the
Fault the step raised, or NoEffect. The outcome names are D9 (log entry 18), the fuel log entry 10. -/
def Obligations.RunRepeatsStepWhileItCompletes : Prop :=
  ∀ (s t : State) (o : StepOutcome) (fuel : Nat), engineStep s = .next (t, o) →
    (o = .completed → run (fuel + 1) s = run fuel t) ∧
    (o ≠ .completed → run (fuel + 1) s = .next (t, o)) ∧
    (s.stopped = false → s.nextInstr.opcode = .invalid → run (fuel + 1) s = .next (t, .fault .decodeError)) ∧
    (s.stopped = false → s.nextInstr.opcode = .rti → s.supervisor = false →
      run (fuel + 1) s = .next (t, .fault .privilegeError))

/-- R275, R33, R34, R250: what the status outputs show in every state, and after a fault the cause code and the rejected opcode
name. The outputs are D9 (log entry 18), the codes D13 (log entry 15), the record D7 (log entry 7), Idle against Running D16
(log entry 22). -/
def Obligations.StatusOutputsShowTheState : Prop :=
  (∀ s : State,
    ((statusOutputs s).pc = s.pc ∧ (statusOutputs s).supervisor = s.supervisor ∧ (statusOutputs s).running = s.running ∧
      (statusOutputs s).processed = s.processed ∧ (statusOutputs s).faultRecord = s.faultLatch) ∧
    ((statusOutputs s).status = .faulted ↔ s.faultLatch ≠ none) ∧
    ((statusOutputs s).status = .halted ↔ s.faultLatch = none ∧ s.running = false) ∧
    ((statusOutputs s).status = .idle ↔ s.faultLatch = none ∧ s.running = true ∧ s.processed = 0) ∧
    ((statusOutputs s).status = .running ↔ s.faultLatch = none ∧ s.running = true ∧ 0 < s.processed) ∧
    (s.faultLatch = none → (statusOutputs s).causeCode = none ∧ (statusOutputs s).rejectedOpcode = none)) ∧
  (∀ s t : State,
    (engineStep s = .next (t, .fault .decodeError) →
      (statusOutputs t).causeCode = some 1 ∧ (statusOutputs t).rejectedOpcode = some "INVALID") ∧
    (engineStep s = .next (t, .fault .privilegeError) →
      (statusOutputs t).causeCode = some 2 ∧ (statusOutputs t).rejectedOpcode = some "RTI"))

/-- R276, R270: while run() is in progress the host does nothing until it returns. In every session, run() is the only operation
that can be pending, nothing acts after it, and a session with nothing pending ran all its operations. The observed steps of
a run are log entry 10, the operations log entry 18. -/
def Obligations.HostWaitsWhileRunIsInProgress : Prop :=
  (∀ (fuel : Nat) (rest : List HostOp) (s t : State), run fuel s = .next (t, .completed) →
    session (.run fuel :: rest) s = .next (t, [.pending])) ∧
  (∀ (fuel : Nat) (rest : List HostOp) (s t u : State) (o : StepOutcome) (rs : List HostReply),
    run fuel s = .next (t, o) → o ≠ .completed → session rest t = .next (u, rs) →
    session (.run fuel :: rest) s = .next (u, .outcome o :: rs)) ∧
  (∀ (ops : List HostOp) (s t : State) (rs : List HostReply), session ops s = .next (t, rs) →
    (∀ j, rs[j]? = some .pending → j + 1 = rs.length ∧ ∃ fuel, ops[j]? = some (.run fuel)) ∧
    (.pending ∉ rs → rs.length = ops.length))
end

