-- ==== Sys2Proof/Laws/Decode.lean ====
section
/-! SUPPORT. Bit-level lemmas of fields, and the opcode of an encoded instruction. -/

namespace Sys2Proof

/-- A word given bit by bit: two words with the same 16 bits are equal. -/
theorem bits_eq {k : Nat} {a b : BitVec k} (h : ∀ j < k, a.getLsbD j = b.getLsbD j) : a = b :=
  BitVec.eq_of_getLsbD_eq fun j hj => h j hj

@[simp] theorem getLsbD_bitField (w : Word) (lo len j : Nat) :
    (bitField w lo len).getLsbD j = (decide (j < len) && w.getLsbD (lo + j)) := by
  simp [bitField]

@[simp] theorem getLsbD_fieldAt {k : Nat} (f : BitVec k) (lo j : Nat) :
    (fieldAt f lo).getLsbD j = (decide (j < 16) && !decide (j < lo) && f.getLsbD (j - lo)) := by
  unfold fieldAt
  by_cases h : j < 16 <;> by_cases hl : j < lo <;> simp [h, hl]

/-- R82: the opcode map and its inverse agree. -/
@[simp] theorem opcodeOfBits_opcodeBits (o : Opcode) : opcodeOfBits (opcodeBits o) = o := by
  cases o <;> rfl

@[simp] theorem opcodeBits_opcodeOfBits (b : BitVec 4) : opcodeBits (opcodeOfBits b) = b := by
  revert b
  decide

/-- R81: no operand field reaches the opcode bits. -/
theorem operandBits_high (i : Instr) {j : Nat} (h : 12 ≤ j) : i.operandBits.getLsbD j = false := by
  have out {k : Nat} (f : BitVec k) (lo : Nat) (hk : k + lo ≤ 12) : (fieldAt f lo).getLsbD j = false := by
    simp only [getLsbD_fieldAt, BitVec.getLsbD_of_ge f (j - lo) (by omega), Bool.and_false]
  cases i <;> simp (disch := omega) only [Instr.operandBits, BitVec.getLsbD_or, out, Bool.or_false]

/-- R81: the opcode field of an encoded instruction. -/
@[simp] theorem opcodeField_encode (i : Instr) : opcodeField (encode i) = opcodeBits i.opcode := by
  apply bits_eq
  intro j hj
  have hlow : ¬ 12 + j < 12 := by omega
  have hhigh : 12 + j < 16 := by omega
  simp only [opcodeField, getLsbD_bitField, encode, BitVec.getLsbD_or, getLsbD_fieldAt,
    operandBits_high i (show 12 ≤ 12 + j by omega), hj, hlow, hhigh, Nat.add_sub_cancel_left, decide_true, decide_false,
    Bool.true_and, Bool.not_false, Bool.or_false]

/-- The instruction a word decodes to has the opcode its opcode field names (R91). -/
theorem opcode_decode (w : Word) : (decode w).opcode = opcodeOfBits (opcodeField w) := by
  unfold decode
  cases h : opcodeOfBits (opcodeField w) <;> simp only <;> (try split) <;> rfl

end Sys2Proof
end

