-- ==== Sys2Proof/Laws/Flags.lean ====
section
/-! SUPPORT. What setcc gives (10_state.md R23, R24). -/

namespace Sys2Proof.Machine

/-- R23: setcc gives exactly one flag, the sign of the value. -/
theorem setcc_cases (v : Word) :
    (v.toInt < 0 ∧ setcc v = ⟨true, false, false⟩) ∨ (v.toInt = 0 ∧ setcc v = ⟨false, true, false⟩) ∨
      (0 < v.toInt ∧ setcc v = ⟨false, false, true⟩) := by
  unfold setcc
  by_cases hm : v.msb = true
  · exact .inl ⟨by simpa using BitVec.toInt_neg_of_msb_true hm, by simp [hm]⟩
  · have hm' : v.msb = false := by simpa using hm
    have hnn : 0 ≤ v.toInt := BitVec.toInt_nonneg_of_msb_false hm'
    by_cases hz : v = 0
    · exact .inr (.inl ⟨by simp [hz], by simp [hz]⟩)
    · have hne : v.toInt ≠ 0 := fun h => hz (BitVec.eq_of_toInt_eq (by simpa using h))
      exact .inr (.inr ⟨by omega, by rw [if_neg hm, if_neg hz]⟩)

theorem setcc_atMostOne (v : Word) : (setcc v).atMostOne = true := by
  rcases setcc_cases v with ⟨-, h⟩ | ⟨-, h⟩ | ⟨-, h⟩ <;> rw [h] <;> rfl

theorem setcc_not_allClear (v : Word) : (setcc v).allClear = false := by
  rcases setcc_cases v with ⟨-, h⟩ | ⟨-, h⟩ | ⟨-, h⟩ <;> rw [h] <;> rfl

end Sys2Proof.Machine
end

