-- ==== Sys2Proof/Laws/State.lean ====
section
/-! SUPPORT. What each update of State does to each field, true by rfl; no later proof unfolds a record update. -/

namespace Sys2Proof.Machine

@[simp] theorem State.store_regs (s : State) (a v : Word) : (s.store a v).regs = s.regs := rfl
@[simp] theorem State.store_pc (s : State) (a v : Word) : (s.store a v).pc = s.pc := rfl
@[simp] theorem State.store_flags (s : State) (a v : Word) : (s.store a v).flags = s.flags := rfl
@[simp] theorem State.store_supervisor (s : State) (a v : Word) : (s.store a v).supervisor = s.supervisor := rfl
@[simp] theorem State.store_running (s : State) (a v : Word) : (s.store a v).running = s.running := rfl
@[simp] theorem State.store_processed (s : State) (a v : Word) : (s.store a v).processed = s.processed := rfl
@[simp] theorem State.store_faultLatch (s : State) (a v : Word) : (s.store a v).faultLatch = s.faultLatch := rfl
@[simp] theorem State.store_mem (s : State) (a v : Word) : (s.store a v).mem = s.mem.write a v := rfl

@[simp] theorem State.setReg_regs (s : State) (i : RegIdx) (v : Word) : (s.setReg i v).regs = s.regs.set i.toNat v i.isLt := rfl
@[simp] theorem State.setReg_pc (s : State) (i : RegIdx) (v : Word) : (s.setReg i v).pc = s.pc := rfl
@[simp] theorem State.setReg_flags (s : State) (i : RegIdx) (v : Word) : (s.setReg i v).flags = s.flags := rfl
@[simp] theorem State.setReg_supervisor (s : State) (i : RegIdx) (v : Word) : (s.setReg i v).supervisor = s.supervisor := rfl
@[simp] theorem State.setReg_running (s : State) (i : RegIdx) (v : Word) : (s.setReg i v).running = s.running := rfl
@[simp] theorem State.setReg_processed (s : State) (i : RegIdx) (v : Word) : (s.setReg i v).processed = s.processed := rfl
@[simp] theorem State.setReg_faultLatch (s : State) (i : RegIdx) (v : Word) : (s.setReg i v).faultLatch = s.faultLatch := rfl
@[simp] theorem State.setReg_mem (s : State) (i : RegIdx) (v : Word) : (s.setReg i v).mem = s.mem := rfl

@[simp] theorem State.writeReg_regs (s : State) (i : RegIdx) (v : Word) : (s.writeReg i v).regs = s.regs.set i.toNat v i.isLt := rfl
@[simp] theorem State.writeReg_pc (s : State) (i : RegIdx) (v : Word) : (s.writeReg i v).pc = s.pc := rfl
@[simp] theorem State.writeReg_flags (s : State) (i : RegIdx) (v : Word) : (s.writeReg i v).flags = setcc v := rfl
@[simp] theorem State.writeReg_supervisor (s : State) (i : RegIdx) (v : Word) : (s.writeReg i v).supervisor = s.supervisor := rfl
@[simp] theorem State.writeReg_running (s : State) (i : RegIdx) (v : Word) : (s.writeReg i v).running = s.running := rfl
@[simp] theorem State.writeReg_processed (s : State) (i : RegIdx) (v : Word) : (s.writeReg i v).processed = s.processed := rfl
@[simp] theorem State.writeReg_faultLatch (s : State) (i : RegIdx) (v : Word) : (s.writeReg i v).faultLatch = s.faultLatch := rfl
@[simp] theorem State.writeReg_mem (s : State) (i : RegIdx) (v : Word) : (s.writeReg i v).mem = s.mem := rfl

@[simp] theorem State.jump_regs (s : State) (t : Word) : (s.jump t).regs = s.regs := rfl
@[simp] theorem State.jump_pc (s : State) (t : Word) : (s.jump t).pc = t := rfl
@[simp] theorem State.jump_flags (s : State) (t : Word) : (s.jump t).flags = s.flags := rfl
@[simp] theorem State.jump_supervisor (s : State) (t : Word) : (s.jump t).supervisor = s.supervisor := rfl
@[simp] theorem State.jump_running (s : State) (t : Word) : (s.jump t).running = s.running := rfl
@[simp] theorem State.jump_processed (s : State) (t : Word) : (s.jump t).processed = s.processed := rfl
@[simp] theorem State.jump_faultLatch (s : State) (t : Word) : (s.jump t).faultLatch = s.faultLatch := rfl
@[simp] theorem State.jump_mem (s : State) (t : Word) : (s.jump t).mem = s.mem := rfl

@[simp] theorem State.halt_regs (s : State) : (s.halt).regs = s.regs := rfl
@[simp] theorem State.halt_pc (s : State) : (s.halt).pc = s.pc := rfl
@[simp] theorem State.halt_flags (s : State) : (s.halt).flags = s.flags := rfl
@[simp] theorem State.halt_supervisor (s : State) : (s.halt).supervisor = s.supervisor := rfl
@[simp] theorem State.halt_running (s : State) : (s.halt).running = false := rfl
@[simp] theorem State.halt_processed (s : State) : (s.halt).processed = s.processed := rfl
@[simp] theorem State.halt_faultLatch (s : State) : (s.halt).faultLatch = s.faultLatch := rfl
@[simp] theorem State.halt_mem (s : State) : (s.halt).mem = s.mem := rfl

@[simp] theorem State.raise_regs (s : State) (k : FaultKind) (o : Opcode) (w : Word) : (s.raise k o w).regs = s.regs := rfl
@[simp] theorem State.raise_pc (s : State) (k : FaultKind) (o : Opcode) (w : Word) : (s.raise k o w).pc = s.pc - 1 := rfl
@[simp] theorem State.raise_flags (s : State) (k : FaultKind) (o : Opcode) (w : Word) : (s.raise k o w).flags = s.flags := rfl
@[simp] theorem State.raise_supervisor (s : State) (k : FaultKind) (o : Opcode) (w : Word) : (s.raise k o w).supervisor = s.supervisor := rfl
@[simp] theorem State.raise_running (s : State) (k : FaultKind) (o : Opcode) (w : Word) : (s.raise k o w).running = s.running := rfl
@[simp] theorem State.raise_processed (s : State) (k : FaultKind) (o : Opcode) (w : Word) : (s.raise k o w).processed = s.processed := rfl
@[simp] theorem State.raise_faultLatch (s : State) (k : FaultKind) (o : Opcode) (w : Word) : (s.raise k o w).faultLatch = some ⟨k, o, s.pc - 1, w⟩ := rfl
@[simp] theorem State.raise_mem (s : State) (k : FaultKind) (o : Opcode) (w : Word) : (s.raise k o w).mem = s.mem := rfl

@[simp] theorem State.count_regs (s : State) : (s.count).regs = s.regs := rfl
@[simp] theorem State.count_pc (s : State) : (s.count).pc = s.pc := rfl
@[simp] theorem State.count_flags (s : State) : (s.count).flags = s.flags := rfl
@[simp] theorem State.count_supervisor (s : State) : (s.count).supervisor = s.supervisor := rfl
@[simp] theorem State.count_running (s : State) : (s.count).running = s.running := rfl
@[simp] theorem State.count_processed (s : State) : (s.count).processed = s.processed + 1 := rfl
@[simp] theorem State.count_faultLatch (s : State) : (s.count).faultLatch = s.faultLatch := rfl
@[simp] theorem State.count_mem (s : State) : (s.count).mem = s.mem := rfl

@[simp] theorem setSupervisor_regs (s : State) (b : Bool) : (setSupervisor s b).regs = s.regs := rfl
@[simp] theorem setSupervisor_pc (s : State) (b : Bool) : (setSupervisor s b).pc = s.pc := rfl
@[simp] theorem setSupervisor_flags (s : State) (b : Bool) : (setSupervisor s b).flags = s.flags := rfl
@[simp] theorem setSupervisor_supervisor (s : State) (b : Bool) : (setSupervisor s b).supervisor = b := rfl
@[simp] theorem setSupervisor_running (s : State) (b : Bool) : (setSupervisor s b).running = s.running := rfl
@[simp] theorem setSupervisor_processed (s : State) (b : Bool) : (setSupervisor s b).processed = s.processed := rfl
@[simp] theorem setSupervisor_faultLatch (s : State) (b : Bool) : (setSupervisor s b).faultLatch = s.faultLatch := rfl
@[simp] theorem setSupervisor_mem (s : State) (b : Bool) : (setSupervisor s b).mem = s.mem := rfl

@[simp] theorem State.withWordAtPc_regs (s : State) (w : Word) : (s.withWordAtPc w).regs = s.regs := rfl
@[simp] theorem State.withWordAtPc_pc (s : State) (w : Word) : (s.withWordAtPc w).pc = s.pc := rfl
@[simp] theorem State.withWordAtPc_flags (s : State) (w : Word) : (s.withWordAtPc w).flags = s.flags := rfl
@[simp] theorem State.withWordAtPc_supervisor (s : State) (w : Word) : (s.withWordAtPc w).supervisor = s.supervisor := rfl
@[simp] theorem State.withWordAtPc_running (s : State) (w : Word) : (s.withWordAtPc w).running = true := rfl
@[simp] theorem State.withWordAtPc_processed (s : State) (w : Word) : (s.withWordAtPc w).processed = s.processed := rfl
@[simp] theorem State.withWordAtPc_faultLatch (s : State) (w : Word) : (s.withWordAtPc w).faultLatch = none := rfl
@[simp] theorem State.withWordAtPc_mem (s : State) (w : Word) : (s.withWordAtPc w).mem = s.mem.write s.pc w := rfl

@[simp] theorem State.advance_eq (s : State) : s.advance = s.jump (s.pc + 1) := rfl
@[simp] theorem State.movePcRelative_eq {k : Nat} (s : State) (o : BitVec k) :
    s.movePcRelative o = s.jump (s.pc + sext16 o) := rfl
@[simp] theorem State.returnFromInterrupt_eq (s : State) : s.returnFromInterrupt = s := rfl
@[simp] theorem State.privileged_eq (s : State) : s.privileged = s.supervisor := rfl
@[simp] theorem writeMemory_eq (s : State) (a v : Word) : writeMemory s a v = s.store a v := rfl
@[simp] theorem readMemory_eq (s : State) (a : Word) : readMemory s a = s.load a := rfl
@[simp] theorem writeRegister_eq (s : State) (i : RegIdx) (v : Word) : writeRegister s i v = s.writeReg i v := rfl
@[simp] theorem readRegister_eq (s : State) (i : RegIdx) : readRegister s i = s.readReg i := rfl
@[simp] theorem setPC_eq (s : State) (a : Word) : setPC s a = s.jump a := rfl

/-! Reading a register or a word of memory depends on `regs` or on `mem` alone. -/

theorem State.readReg_congr {s t : State} (h : t.regs = s.regs) (i : RegIdx) : t.readReg i = s.readReg i := by
  simp only [State.readReg, h]

theorem State.load_congr {s t : State} (h : t.mem = s.mem) (a : Word) : t.load a = s.load a := by
  simp only [State.load, h]

@[simp] theorem State.store_readReg (s : State) (a v : Word) (r : RegIdx) : (s.store a v).readReg r = s.readReg r := rfl
@[simp] theorem State.setReg_load (s : State) (i : RegIdx) (v : Word) (x : Word) : (s.setReg i v).load x = s.load x := rfl
@[simp] theorem State.writeReg_load (s : State) (i : RegIdx) (v : Word) (x : Word) : (s.writeReg i v).load x = s.load x := rfl
@[simp] theorem State.jump_readReg (s : State) (t : Word) (r : RegIdx) : (s.jump t).readReg r = s.readReg r := rfl
@[simp] theorem State.jump_load (s : State) (t : Word) (x : Word) : (s.jump t).load x = s.load x := rfl
@[simp] theorem State.halt_readReg (s : State) (r : RegIdx) : (s.halt).readReg r = s.readReg r := rfl
@[simp] theorem State.halt_load (s : State) (x : Word) : (s.halt).load x = s.load x := rfl
@[simp] theorem State.raise_readReg (s : State) (k : FaultKind) (o : Opcode) (w : Word) (r : RegIdx) : (s.raise k o w).readReg r = s.readReg r := rfl
@[simp] theorem State.raise_load (s : State) (k : FaultKind) (o : Opcode) (w : Word) (x : Word) : (s.raise k o w).load x = s.load x := rfl
@[simp] theorem State.count_readReg (s : State) (r : RegIdx) : (s.count).readReg r = s.readReg r := rfl
@[simp] theorem State.count_load (s : State) (x : Word) : (s.count).load x = s.load x := rfl
@[simp] theorem setSupervisor_readReg (s : State) (b : Bool) (r : RegIdx) : (setSupervisor s b).readReg r = s.readReg r := rfl
@[simp] theorem setSupervisor_load (s : State) (b : Bool) (x : Word) : (setSupervisor s b).load x = s.load x := rfl
@[simp] theorem State.withWordAtPc_readReg (s : State) (w : Word) (r : RegIdx) : (s.withWordAtPc w).readReg r = s.readReg r := rfl

end Sys2Proof.Machine
end

