-- ==== Sys2Proof/Laws/Memory.lean ====
section
/-! SUPPORT. What one read, one write and one register write do, and that every memory operation keeps the canonical form. -/

namespace Sys2Proof.Machine

/-! ## Reading after the parts of a write -/

theorem Memory.read_erase_same (m : Memory) (a : Word) : (m.erase a).read a = Memory.unlisted := by
  induction m with
  | nil => rfl
  | cons c rest ih =>
    by_cases h : c.1 = a.toNat
    · simpa [Memory.erase, h] using ih
    · simpa [Memory.erase, Memory.read, h] using ih

theorem Memory.read_erase_other (m : Memory) {a b : Word} (hab : b ≠ a) : (m.erase a).read b = m.read b := by
  have hne : a.toNat ≠ b.toNat := fun h => hab (BitVec.eq_of_toNat_eq h.symm)
  induction m with
  | nil => rfl
  | cons c rest ih =>
    by_cases h : c.1 = a.toNat
    · simpa [Memory.erase, Memory.read, h, hne] using ih
    · by_cases hb : c.1 = b.toNat
      · simp [Memory.erase, Memory.read, hb, Ne.symm hne]
      · simpa [Memory.erase, Memory.read, h, hb] using ih

theorem Memory.read_place_same (m : Memory) (a v : Word) (h : ∀ c ∈ m, c.1 ≠ a.toNat) :
    (m.place (a.toNat, v)).read a = v := by
  induction m with
  | nil => simp [Memory.place, Memory.read]
  | cons c rest ih =>
    have hc : c.1 ≠ a.toNat := h c (by simp)
    have hrest := ih fun d hd => h d (by simp [hd])
    by_cases hlt : a.toNat < c.1 <;> simp [Memory.place, Memory.read, hlt, hc, hrest]

theorem Memory.read_place_other (m : Memory) {a b : Word} (v : Word) (hab : b ≠ a) :
    (m.place (a.toNat, v)).read b = m.read b := by
  have hne : a.toNat ≠ b.toNat := fun h => hab (BitVec.eq_of_toNat_eq h.symm)
  induction m with
  | nil => simp [Memory.place, Memory.read, hne]
  | cons c rest ih =>
    by_cases hlt : a.toNat < c.1 <;> simp [Memory.place, Memory.read, hlt, hne, ih]

theorem Memory.erase_ne (m : Memory) (a : Word) : ∀ c ∈ m.erase a, c.1 ≠ a.toNat := by
  intro c hc
  simpa using (List.mem_filter.mp hc).2

/-- R51, R52: what a read after a write gives, of any memory. -/
theorem Memory.read_write (m : Memory) (a v b : Word) :
    (m.write a v).read b = if b = a then v else m.read b := by
  unfold Memory.write
  by_cases hab : b = a
  · subst hab
    by_cases hv : v = Memory.unlisted
    · simp [hv, Memory.read_erase_same]
    · simp [hv, Memory.read_place_same _ _ _ (Memory.erase_ne m b)]
  · by_cases hv : v = Memory.unlisted
    · simp [hv, hab, Memory.read_erase_other m hab]
    · simp [hv, hab, Memory.read_place_other _ v hab, Memory.read_erase_other m hab]

@[simp] theorem Memory.read_nil (a : Word) : Memory.read [] a = 0x0000 := rfl

/-! ## The canonical form -/

theorem Memory.erase_wf {m : Memory} (h : m.wf) (a : Word) : (m.erase a).wf :=
  ⟨h.1.filter _, fun c hc => h.2 c (List.mem_filter.mp hc).1⟩

theorem Memory.mem_place {m : Memory} {c d : Cell} : d ∈ m.place c ↔ d = c ∨ d ∈ m := by
  induction m with
  | nil => simp [Memory.place]
  | cons e rest ih =>
    by_cases hlt : c.1 < e.1
    · simp [Memory.place, hlt]
    · simp only [Memory.place, hlt, if_false, List.mem_cons, ih]
      tauto

theorem Memory.place_rising {m : Memory} {c : Cell} (h : m.Pairwise (fun d e => d.1 < e.1))
    (hne : ∀ d ∈ m, d.1 ≠ c.1) : (m.place c).Pairwise (fun d e => d.1 < e.1) := by
  induction m with
  | nil => simp [Memory.place]
  | cons e rest ih =>
    obtain ⟨he, hr⟩ := List.pairwise_cons.mp h
    by_cases hlt : c.1 < e.1
    · simp only [Memory.place, hlt, if_true, List.pairwise_cons]
      refine ⟨?_, he, hr⟩
      intro d hd
      rcases List.mem_cons.mp hd with rfl | hd
      · exact hlt
      · exact lt_trans hlt (he d hd)
    · simp only [Memory.place, hlt, if_false, List.pairwise_cons]
      refine ⟨?_, ih hr fun d hd => hne d (by simp [hd])⟩
      intro d hd
      have hec : e.1 ≠ c.1 := hne e (by simp)
      rcases Memory.mem_place.mp hd with rfl | hd
      · omega
      · exact he d hd

/-- A write keeps the canonical form. -/
theorem Memory.write_wf {m : Memory} (h : m.wf) (a v : Word) : (m.write a v).wf := by
  have he := Memory.erase_wf h a
  unfold Memory.write
  by_cases hv : v = Memory.unlisted
  · simpa only [hv, if_true] using he
  · simp only [hv, if_false]
    refine ⟨Memory.place_rising he.1 (Memory.erase_ne m a), ?_⟩
    intro c hc
    rcases Memory.mem_place.mp hc with rfl | hc
    · exact ⟨a.isLt, hv⟩
    · exact he.2 c hc

theorem State.reset_mem_wf : State.reset.mem.wf := by
  simp [State.reset, Memory.wf]

/-! ## Through the state -/

/-- R51, R52. -/
theorem State.load_store (s : State) (a v b : Word) : (s.store a v).load b = if b = a then v else s.load b :=
  Memory.read_write s.mem a v b

/-- R65: what the next step fetches from. -/
theorem State.fetch_withWordAtPc (s : State) (w : Word) : (s.withWordAtPc w).fetch = w :=
  (State.load_store s s.pc w s.pc).trans (if_pos rfl)

/-- R21, R22. -/
theorem State.readReg_setReg (s : State) (i j : RegIdx) (v : Word) :
    (s.setReg i v).readReg j = if j = i then v else s.readReg j := by
  unfold State.readReg State.setReg
  by_cases h : j = i
  · subst h; simp
  · have hne : i.toNat ≠ j.toNat := fun e => h (BitVec.eq_of_toNat_eq e.symm)
    simp [h, Vector.getElem_set_ne _ _ hne]

theorem State.readReg_writeReg (s : State) (i j : RegIdx) (v : Word) :
    (s.writeReg i v).readReg j = if j = i then v else s.readReg j :=
  State.readReg_setReg s i j v

theorem State.reset_readReg (r : RegIdx) : State.reset.readReg r = 0x0000 := by
  simp [State.readReg, State.reset]

end Sys2Proof.Machine
end

