-- ==== Sys2Proof/Laws/Exec.lean ====
section
/-! SUPPORT. Everything one instruction and one step can do, said once: later proofs cite these cases and do not unfold
`exec` or `engineStep`. -/

namespace Sys2Proof.Machine

/-- The kinds of effect an instruction can have on the state it is given (40_operate.md to 43_system.md). -/
inductive Effect (s : State) : Instr → State → Prop where
  | wroteReg {i : Instr} (d : RegIdx) (v : Word)
      (h : i.opcode = .add ∨ i.opcode = .and ∨ i.opcode = .not ∨ i.opcode = .ld ∨ i.opcode = .ldi ∨ i.opcode = .ldr ∨
        i.opcode = .lea) : Effect s i (s.writeReg d v)
  | stored {i : Instr} (a v : Word) (h : i.opcode = .st ∨ i.opcode = .sti ∨ i.opcode = .str) :
      Effect s i (s.store a v)
  | jumped {i : Instr} (t : Word) (h : i.opcode = .br ∨ i.opcode = .jmp ∨ i.opcode = .jsr) : Effect s i (s.jump t)
  | fellThrough (nzp : BitVec 3) (o : BitVec 9) (h : s.flags.meets nzp = false) : Effect s (.br nzp o) s
  | gatePassed (x : BitVec 12) (h : s.supervisor = true) : Effect s (.rti x) s
  | gateClosed (x : BitVec 12) (h : s.supervisor = false) :
      Effect s (.rti x) (s.raise .privilegeError .rti (encode (.rti x)))
  | halted : Effect s (.trap haltVector) s.halt
  | ignoredTrap (v : BitVec 8) (h : v ≠ haltVector) : Effect s (.trap v) s
  | rejected (x : BitVec 12) : Effect s (.invalid x) (s.raise .decodeError .invalid (encode (.invalid x)))

/-- One instruction has one of these effects. -/
theorem exec_effect (i : Instr) (s : State) : ∃ t, exec i s = .next t ∧ Effect s i t := by
  cases i with
  | add dr sr1 sr2 => exact ⟨_, rfl, .wroteReg _ _ (by simp [Instr.opcode])⟩
  | addi dr sr1 imm5 => exact ⟨_, rfl, .wroteReg _ _ (by simp [Instr.opcode])⟩
  | and dr sr1 sr2 => exact ⟨_, rfl, .wroteReg _ _ (by simp [Instr.opcode])⟩
  | andi dr sr1 imm5 => exact ⟨_, rfl, .wroteReg _ _ (by simp [Instr.opcode])⟩
  | not dr sr => exact ⟨_, rfl, .wroteReg _ _ (by simp [Instr.opcode])⟩
  | br nzp o =>
    by_cases h : s.flags.meets nzp = true
    · exact ⟨s.movePcRelative o, by simp [exec, execBr, h], .jumped _ (by simp [Instr.opcode])⟩
    · exact ⟨s, by simp [exec, execBr, h], .fellThrough _ _ (by simpa using h)⟩
  | jmp b => exact ⟨_, rfl, .jumped _ (by simp [Instr.opcode])⟩
  | jsr o => exact ⟨_, rfl, .jumped _ (by simp [Instr.opcode])⟩
  | jsrr b => exact ⟨_, rfl, .jumped _ (by simp [Instr.opcode])⟩
  | ld dr o => exact ⟨_, rfl, .wroteReg _ _ (by simp [Instr.opcode])⟩
  | ldi dr o => exact ⟨_, rfl, .wroteReg _ _ (by simp [Instr.opcode])⟩
  | ldr dr b o => exact ⟨_, rfl, .wroteReg _ _ (by simp [Instr.opcode])⟩
  | lea dr o => exact ⟨_, rfl, .wroteReg _ _ (by simp [Instr.opcode])⟩
  | st sr o => exact ⟨_, rfl, .stored _ _ (by simp [Instr.opcode])⟩
  | sti sr o => exact ⟨_, rfl, .stored _ _ (by simp [Instr.opcode])⟩
  | str sr b o => exact ⟨_, rfl, .stored _ _ (by simp [Instr.opcode])⟩
  | rti x =>
    by_cases h : s.supervisor = true
    · exact ⟨s, by simp [exec, execRti, h], .gatePassed _ h⟩
    · exact ⟨_, by simp [exec, execRti, h], .gateClosed _ (by simpa using h)⟩
  | trap v =>
    by_cases h : v = haltVector
    · subst h; exact ⟨s.halt, by simp [exec, execTrap], .halted⟩
    · exact ⟨s, by simp [exec, execTrap, h], .ignoredTrap _ h⟩
  | invalid x => exact ⟨_, rfl, .rejected _⟩

theorem exec_effect_of_next {i : Instr} {s t : State} (h : exec i s = .next t) : Effect s i t := by
  obtain ⟨u, hu, he⟩ := exec_effect i s
  rw [hu] at h
  cases h
  exact he

/-! ## The engine -/

theorem State.stopped_eq_false {s : State} (h : s.stopped = false) : s.faultLatch = none ∧ s.running = true := by
  simpa [State.stopped] using h

/-- R271, R272. -/
theorem engineStep_of_stopped {s : State} (h : s.stopped = true) : engineStep s = .next (s, .noEffect) := by
  simp [engineStep, h]

/-- R90: an engine that is not stopped runs the fetched instruction after its advance, and retires it. -/
theorem engineStep_of_live {s t : State} (h : s.stopped = false) (ht : exec s.nextInstr s.advance = .next t) :
    engineStep s = .next t.retire := by
  unfold engineStep
  rw [ht]
  simp [h]

/-- What one engine step can do: nothing, or the effect of the fetched instruction, retired. -/
theorem engineStep_cases (s : State) :
    (s.stopped = true ∧ engineStep s = .next (s, .noEffect)) ∨
      (s.stopped = false ∧ ∃ i t, s.nextInstr = i ∧ Effect s.advance i t ∧ engineStep s = .next t.retire) := by
  by_cases h : s.stopped = true
  · exact .inl ⟨h, engineStep_of_stopped h⟩
  · obtain ⟨t, ht, he⟩ := exec_effect s.nextInstr s.advance
    exact .inr ⟨by simpa using h, _, t, rfl, he, engineStep_of_live (by simpa using h) ht⟩

/-- The state a step leaves, in the same two cases. -/
theorem step_cases {s u : State} (h : step s = .next u) :
    (s.stopped = true ∧ u = s) ∨
      (s.stopped = false ∧ ∃ i t, s.nextInstr = i ∧ Effect s.advance i t ∧ u = t.retire.1) := by
  unfold step at h
  rcases engineStep_cases s with ⟨hs, he⟩ | ⟨hs, i, t, hi, ht, he⟩
  · rw [he] at h; cases h; exact .inl ⟨hs, rfl⟩
  · rw [he] at h; cases h; exact .inr ⟨hs, i, t, hi, ht, rfl⟩

theorem State.retire_of_latch_none {t : State} (h : t.faultLatch = none) :
    t.retire = (t.count, if t.running then .completed else .halted) := by
  simp [State.retire, h]

theorem State.retire_of_latch_some {t : State} {r : FaultRecord} (h : t.faultLatch = some r) :
    t.retire = (t, .fault r.kind) := by
  simp [State.retire, h]

end Sys2Proof.Machine
end

