-- ==== Sys2Proof/Laws/Frames.lean ====
section
/-! SUPPORT. What a register write and a jump change and leave unchanged, in the terms of Safety.lean, and the
inductions over a run and over a session of the host. -/

namespace Sys2Proof.Machine

theorem signFlags_setcc (v : Word) : SignFlags v (setcc v) := by
  rcases setcc_cases v with ⟨h, e⟩ | ⟨h, e⟩ | ⟨h, e⟩ <;> rw [e] <;> simp [SignFlags] <;> omega

theorem State.writeReg_writesReg (s : State) (d : RegIdx) (v : Word) : WritesReg d v s (s.writeReg d v) where
  value := by simp [State.readReg_writeReg]
  others r h := by simp [State.readReg_writeReg, h]
  flags := by simpa using signFlags_setcc v
  pc := rfl
  control := ⟨rfl, rfl, rfl, rfl⟩
  memory _ := rfl

theorem State.jump_jumpsTo (s : State) (a : Word) : JumpsTo a s (s.jump a) where
  pc := rfl
  regs _ := rfl
  flags := rfl
  control := ⟨rfl, rfl, rfl, rfl⟩
  memory _ := rfl

theorem step_of_engineStep {s t : State} {o : StepOutcome} (h : engineStep s = .next (t, o)) : step s = .next t := by
  rw [step, h]
  rfl

/-- What every step keeps, a run keeps (R270). -/
theorem run_keeps (P : State → Prop) (hP : ∀ s t, P s → step s = .next t → P t) :
    ∀ (k : Nat) (s t : State) (o : StepOutcome), P s → run k s = .next (t, o) → P t := by
  intro k
  induction k with
  | zero =>
    intro s t o hp h
    cases h
    exact hp
  | succ k ih =>
    intro s t o hp h
    rw [run] at h
    rcases he : engineStep s with ⟨u, o'⟩ | _ | _ <;> rw [he] at h
    · have hu := hP _ _ hp (step_of_engineStep he)
      cases o' with
      | completed => exact ih u t o hu h
      | halted => cases h; exact hu
      | fault k => cases h; exact hu
      | noEffect => cases h; exact hu
    · cases h
    · cases h

/-! ## The host -/

/-- What one host operation can do to the state (R275): a read does nothing, a write one thing, and `step` and `run` are the
engine's. -/
theorem hostOp_apply_cases {op : HostOp} {s t : State} {r : HostReply} (h : op.apply s = .next (t, r)) :
    t = s ∨ (∃ a v, t = s.store a v) ∨ (∃ i v, t = s.writeReg i v) ∨ (∃ a, t = s.jump a) ∨
      (∃ b, t = setSupervisor s b) ∨ step s = .next t ∨ (∃ k o, run k s = .next (t, o)) := by
  cases op with
  | readMemory a => cases h; exact .inl rfl
  | writeMemory a v => cases h; exact .inr (.inl ⟨a, v, rfl⟩)
  | readRegister i => cases h; exact .inl rfl
  | writeRegister i v => cases h; exact .inr (.inr (.inl ⟨i, v, rfl⟩))
  | getFlags => cases h; exact .inl rfl
  | step =>
    simp only [HostOp.apply] at h
    rcases he : engineStep s with ⟨u, o⟩ | _ | _ <;> rw [he] at h <;> cases h
    exact .inr (.inr (.inr (.inr (.inr (.inl (step_of_engineStep he))))))
  | run k =>
    simp only [HostOp.apply] at h
    rcases he : run k s with ⟨u, o⟩ | _ | _ <;> rw [he] at h <;> cases h
    exact .inr (.inr (.inr (.inr (.inr (.inr ⟨k, o, he⟩)))))
  | setPC a => cases h; exact .inr (.inr (.inr (.inl ⟨a, rfl⟩)))
  | setSupervisor b => cases h; exact .inr (.inr (.inr (.inr (.inl ⟨b, rfl⟩))))
  | readStatus => cases h; exact .inl rfl

/-- What a session of one operation and more can do: that operation, still pending; or that operation, returned, and then the
rest. -/
theorem session_cons_cases {op : HostOp} {ops : List HostOp} {s t : State} {rs : List HostReply}
    (h : session (op :: ops) s = .next (t, rs)) :
    (op.apply s = .next (t, .pending) ∧ rs = [.pending]) ∨
      (∃ u r rs', op.apply s = .next (u, r) ∧ r ≠ .pending ∧ session ops u = .next (t, rs') ∧ rs = r :: rs') := by
  rw [session] at h
  rcases ha : op.apply s with ⟨u, r⟩ | _ | _ <;> rw [ha] at h
  · by_cases hr : r = .pending
    · subst hr
      simp only [if_true] at h
      cases h
      exact .inl ⟨rfl, rfl⟩
    · simp only [hr, if_false] at h
      rcases hs : session ops u with ⟨v, rs'⟩ | _ | _ <;> rw [hs] at h <;> cases h
      exact .inr ⟨u, r, rs', rfl, hr, hs, rfl⟩
  · cases h
  · cases h

/-- What every host operation keeps, a session keeps (R276). -/
theorem session_keeps (P : State → Prop) (hP : ∀ op s t r, P s → HostOp.apply op s = .next (t, r) → P t) :
    ∀ (ops : List HostOp) (s t : State) (rs : List HostReply), P s → session ops s = .next (t, rs) → P t := by
  intro ops
  induction ops with
  | nil =>
    intro s t rs hp h
    cases h
    exact hp
  | cons op ops ih =>
    intro s t rs hp h
    rcases session_cons_cases h with ⟨ha, -⟩ | ⟨u, r, rs', ha, -, hs, -⟩
    · exact hP _ _ _ _ hp ha
    · exact ih u t rs' (hP _ _ _ _ hp ha) hs

end Sys2Proof.Machine
end

