-- ==== Sys2Proof/Laws/PerInstr.lean ====
section
/-! SUPPORT. Statements about every instruction as syntax, one lemma per constructor. -/

namespace Sys2Proof.Laws.RowMatch

/-- The encoding of an instruction matches the fixed bits of the opcode-table row it stands for (30_encoding.md R83, R89). -/
def Statement (i : Instr) : Prop :=
  ∃ r ∈ opcodeTable, r.mnemonic = i.mnemonic ∧ encode i &&& r.mask = r.fixedBits

/-- The row `r` of the table, shown bit by bit to be matched by the encoding of `i`. -/
theorem of_row {i : Instr} (r : TableRow) (hr : r ∈ opcodeTable) (hm : r.mnemonic = i.mnemonic)
    (h : ∀ j < 16, (encode i &&& r.mask).getLsbD j = r.fixedBits.getLsbD j) : Statement i :=
  ⟨r, hr, hm, bits_eq h⟩

theorem add (dr : RegIdx) (sr1 : RegIdx) (sr2 : RegIdx) : Statement (.add dr sr1 sr2) := by
  refine of_row ⟨"ADD", 0x1000, 0xF020, 0x0018⟩ (by decide) rfl fun j hj => ?_
  interval_cases j <;> simp [encode, Instr.operandBits, Instr.opcode, opcodeBits, fieldAt]

theorem addi (dr : RegIdx) (sr1 : RegIdx) (imm5 : BitVec 5) : Statement (.addi dr sr1 imm5) := by
  refine of_row ⟨"ADDI", 0x1020, 0xF020, 0x0000⟩ (by decide) rfl fun j hj => ?_
  interval_cases j <;> simp [encode, Instr.operandBits, Instr.opcode, opcodeBits, fieldAt]

theorem and (dr : RegIdx) (sr1 : RegIdx) (sr2 : RegIdx) : Statement (.and dr sr1 sr2) := by
  refine of_row ⟨"AND", 0x5000, 0xF020, 0x0018⟩ (by decide) rfl fun j hj => ?_
  interval_cases j <;> simp [encode, Instr.operandBits, Instr.opcode, opcodeBits, fieldAt]

theorem andi (dr : RegIdx) (sr1 : RegIdx) (imm5 : BitVec 5) : Statement (.andi dr sr1 imm5) := by
  refine of_row ⟨"ANDI", 0x5020, 0xF020, 0x0000⟩ (by decide) rfl fun j hj => ?_
  interval_cases j <;> simp [encode, Instr.operandBits, Instr.opcode, opcodeBits, fieldAt]

theorem not (dr : RegIdx) (sr : RegIdx) : Statement (.not dr sr) := by
  refine of_row ⟨"NOT", 0x9000, 0xF000, 0x003F⟩ (by decide) rfl fun j hj => ?_
  interval_cases j <;> simp [encode, Instr.operandBits, Instr.opcode, opcodeBits, fieldAt]

theorem br (nzp : BitVec 3) (offset9 : BitVec 9) : Statement (.br nzp offset9) := by
  refine of_row ⟨"BR", 0x0000, 0xF000, 0x0000⟩ (by decide) rfl fun j hj => ?_
  interval_cases j <;> simp [encode, Instr.operandBits, Instr.opcode, opcodeBits, fieldAt]

theorem jmp (baseR : RegIdx) : Statement (.jmp baseR) := by
  refine of_row ⟨"JMP", 0xC000, 0xF000, 0x0E3F⟩ (by decide) rfl fun j hj => ?_
  interval_cases j <;> simp [encode, Instr.operandBits, Instr.opcode, opcodeBits, fieldAt]

theorem jsr (offset11 : BitVec 11) : Statement (.jsr offset11) := by
  refine of_row ⟨"JSR", 0x4800, 0xF800, 0x0000⟩ (by decide) rfl fun j hj => ?_
  interval_cases j <;> simp [encode, Instr.operandBits, Instr.opcode, opcodeBits, fieldAt]

theorem jsrr (baseR : RegIdx) : Statement (.jsrr baseR) := by
  refine of_row ⟨"JSRR", 0x4000, 0xF800, 0x063F⟩ (by decide) rfl fun j hj => ?_
  interval_cases j <;> simp [encode, Instr.operandBits, Instr.opcode, opcodeBits, fieldAt]

theorem ld (dr : RegIdx) (offset9 : BitVec 9) : Statement (.ld dr offset9) := by
  refine of_row ⟨"LD", 0x2000, 0xF000, 0x0000⟩ (by decide) rfl fun j hj => ?_
  interval_cases j <;> simp [encode, Instr.operandBits, Instr.opcode, opcodeBits, fieldAt]

theorem ldi (dr : RegIdx) (offset9 : BitVec 9) : Statement (.ldi dr offset9) := by
  refine of_row ⟨"LDI", 0xA000, 0xF000, 0x0000⟩ (by decide) rfl fun j hj => ?_
  interval_cases j <;> simp [encode, Instr.operandBits, Instr.opcode, opcodeBits, fieldAt]

theorem ldr (dr : RegIdx) (baseR : RegIdx) (offset6 : BitVec 6) : Statement (.ldr dr baseR offset6) := by
  refine of_row ⟨"LDR", 0x6000, 0xF000, 0x0000⟩ (by decide) rfl fun j hj => ?_
  interval_cases j <;> simp [encode, Instr.operandBits, Instr.opcode, opcodeBits, fieldAt]

theorem lea (dr : RegIdx) (offset9 : BitVec 9) : Statement (.lea dr offset9) := by
  refine of_row ⟨"LEA", 0xE000, 0xF000, 0x0000⟩ (by decide) rfl fun j hj => ?_
  interval_cases j <;> simp [encode, Instr.operandBits, Instr.opcode, opcodeBits, fieldAt]

theorem st (sr : RegIdx) (offset9 : BitVec 9) : Statement (.st sr offset9) := by
  refine of_row ⟨"ST", 0x3000, 0xF000, 0x0000⟩ (by decide) rfl fun j hj => ?_
  interval_cases j <;> simp [encode, Instr.operandBits, Instr.opcode, opcodeBits, fieldAt]

theorem sti (sr : RegIdx) (offset9 : BitVec 9) : Statement (.sti sr offset9) := by
  refine of_row ⟨"STI", 0xB000, 0xF000, 0x0000⟩ (by decide) rfl fun j hj => ?_
  interval_cases j <;> simp [encode, Instr.operandBits, Instr.opcode, opcodeBits, fieldAt]

theorem str (sr : RegIdx) (baseR : RegIdx) (offset6 : BitVec 6) : Statement (.str sr baseR offset6) := by
  refine of_row ⟨"STR", 0x7000, 0xF000, 0x0000⟩ (by decide) rfl fun j hj => ?_
  interval_cases j <;> simp [encode, Instr.operandBits, Instr.opcode, opcodeBits, fieldAt]

theorem rti (ignored : BitVec 12) : Statement (.rti ignored) := by
  refine of_row ⟨"RTI", 0x8000, 0xF000, 0x0FFF⟩ (by decide) rfl fun j hj => ?_
  interval_cases j <;> simp [encode, Instr.operandBits, Instr.opcode, opcodeBits, fieldAt]

theorem trap (vector8 : BitVec 8) : Statement (.trap vector8) := by
  refine of_row ⟨"TRAP", 0xF000, 0xF000, 0x0F00⟩ (by decide) rfl fun j hj => ?_
  interval_cases j <;> simp [encode, Instr.operandBits, Instr.opcode, opcodeBits, fieldAt]

theorem invalid (ignored : BitVec 12) : Statement (.invalid ignored) := by
  refine of_row ⟨"INVALID", 0xD000, 0xF000, 0x0FFF⟩ (by decide) rfl fun j hj => ?_
  interval_cases j <;> simp [encode, Instr.operandBits, Instr.opcode, opcodeBits, fieldAt]

end Sys2Proof.Laws.RowMatch
end

