-- ==== Sys2Proof/Tests/Slice0.lean ====
section
/-! SUPPORT. Tests of single steps, their expected results from spec/95_test_vectors.md (T<n>, V<n>, P<n>) and the rules' own
examples, and a witness for the hypotheses of every obligation that has some. -/

namespace Sys2Proof.Tests

open Sys2Proof Sys2Proof.Machine

/-- A launch state (R303): one word at the pc, all else as at construction. -/
def launch (pc w : Word) : State := setPC (writeMemory State.reset pc w) pc

/-- The state after one step (the same state, if it stopped). -/
def after (s : State) : State :=
  match step s with
  | .next t => t
  | .fault _ => s
  | .refused _ => s

/-- The outcome of one step. -/
def outcome (s : State) : Option StepOutcome :=
  match engineStep s with
  | .next (_, o) => some o
  | .fault _ => none
  | .refused _ => none

/-- The state with register `i` set as the vector lists it, the flags left alone. -/
def withReg (s : State) (i : RegIdx) (v : Word) : State := s.setReg i v
/-- The state with the flags as the vector lists them. -/
def withFlags (s : State) (n z p : Bool) : State := { s with flags := ⟨n, z, p⟩ }

/-! ## WellFormed: the check refuses an ill-formed term -/

theorem test_wellFormed_refuses_invalid : (Instr.invalid 0).wellFormed = false := by decide
theorem test_wellFormed_accepts_nop : (Instr.br 0 0).wellFormed = true := by decide

/-! ## Decoding: words written out from R83's bit patterns -/

theorem test_decode_add : decode 0b0001_010_000_0_00_001 = .add 2 0 1 := by decide
theorem test_decode_addi : decode 0b0001_001_001_1_11111 = .addi 1 1 0b11111 := by decide
theorem test_decode_and : decode 0b0101_011_001_0_00_010 = .and 3 1 2 := by decide
theorem test_decode_andi : decode 0b0101_100_100_1_11111 = .andi 4 4 0b11111 := by decide
theorem test_decode_not : decode 0b1001_100_101_111111 = .not 4 5 := by decide
theorem test_decode_br : decode 0b0000_010_111111101 = .br 0b010 0b111111101 := by decide
theorem test_decode_jmp : decode 0b1100_000_011_000000 = .jmp 3 := by decide
theorem test_decode_jsr : decode 0b0100_1_00000000101 = .jsr 5 := by decide
theorem test_decode_jsrr : decode 0b0100_0_00_010_000000 = .jsrr 2 := by decide
theorem test_decode_ld : decode 0b0010_001_000000010 = .ld 1 2 := by decide
theorem test_decode_ldi : decode 0b1010_010_000000110 = .ldi 2 6 := by decide
theorem test_decode_ldr : decode 0b0110_011_100_111111 = .ldr 3 4 0b111111 := by decide
theorem test_decode_lea : decode 0b1110_000_111111110 = .lea 0 0b111111110 := by decide
theorem test_decode_st : decode 0b0011_001_111111111 = .st 1 0b111111111 := by decide
theorem test_decode_sti : decode 0b1011_010_000000001 = .sti 2 1 := by decide
theorem test_decode_str : decode 0b0111_011_100_111111 = .str 3 4 0b111111 := by decide
theorem test_decode_rti : decode 0b1000_111111111111 = .rti 0b111111111111 := by decide
theorem test_decode_trap : decode 0b1111_1111_00100101 = .trap 0b00100101 := by decide
theorem test_decode_invalid : decode 0b1101_000000000000 = .invalid 0 := by decide
theorem test_decodeTableWord : decodeTableWord 16 0xF025 = some (.trap 0x25) := by decide
theorem test_decodeTableWord_refuses_longer : decodeTableWord 32 0xF025 = none := by decide

/-! ## Operate (95_test_vectors.md section 2.1) -/

theorem test_add_T1_overflow_wraps :
    let t := after (withReg (withReg (launch 0x3000 0x1401) 0 0x7FFF) 1 0x0001)
    (t.readReg 2, t.flags, t.pc, t.processed) = (0x8000, ⟨true, false, false⟩, 0x3001, 1) := by decide
theorem test_add_T3_source_is_destination :
    (after (withReg (launch 0x3000 0x16C3) 3 0x1234)).readReg 3 = 0x2468 := by decide
theorem test_addi_T4_most_negative_imm5 :
    let t := after (withReg (launch 0x3000 0x1BB0) 6 0x0010)
    (t.readReg 5, t.flags) = (0x0000, ⟨false, true, false⟩) := by decide
theorem test_addi_T5_most_positive_imm5 :
    let t := after (withReg (launch 0x3000 0x1BAF) 6 0xFFF1)
    (t.readReg 5, t.flags) = (0x0000, ⟨false, true, false⟩) := by decide
theorem test_and_T11_ignored_bits :
    let t := after (withReg (withReg (launch 0x3000 0x5658) 1 0xF0F0) 0 0x3C3C)
    (t.readReg 3, t.flags) = (0x3030, ⟨false, false, true⟩) := by decide
theorem test_andi_T8_clears :
    let t := after (withReg (launch 0x3000 0x5020) 0 0xBEEF)
    (t.readReg 0, t.flags) = (0x0000, ⟨false, true, false⟩) := by decide
theorem test_andi_T9_identity :
    let t := after (withReg (launch 0x3000 0x593F) 4 0xBEEF)
    (t.readReg 4, t.flags) = (0xBEEF, ⟨true, false, false⟩) := by decide
theorem test_not_T13 : (after (withReg (launch 0x3000 0x997F) 5 0x00FF)).readReg 4 = 0xFF00 := by decide
theorem test_not_T14_ignored_bits : (after (withReg (launch 0x3000 0x9940) 5 0x00FF)).readReg 4 = 0xFF00 := by decide

/-! ## Control (section 2.2) -/

theorem test_br_T26_target_wraps : (after (withFlags (launch 0xFFF0 0x0EFF) false false true)).pc = 0x00F0 := by decide
theorem test_br_T23_not_taken : (after (withFlags (launch 0x3000 0x0805) false false true)).pc = 0x3001 := by decide
theorem test_jmp_T32_ignored_bits : (after (withReg (launch 0x3000 0xCEFF) 3 0x4000)).pc = 0x4000 := by decide
theorem test_jsr_T35_most_negative_offset : (after (launch 0x0100 0x4C00)).pc = 0xFD01 := by decide
theorem test_jsr_T34_saves_no_link :
    let t := after (launch 0x3000 0x4805)
    (t.pc, t.readReg 7) = (0x3006, 0x0000) := by decide
theorem test_jsrr_T39_reads_r7 :
    let t := after (withReg (launch 0x3000 0x41C0) 7 0x3456)
    (t.pc, t.readReg 7) = (0x3456, 0x3456) := by decide
theorem test_jsrr_T40_ignored_bits : (after (withReg (launch 0x3000 0x46FF) 3 0x1111)).pc = 0x1111 := by decide

/-! ## Loads and stores (section 2.3) -/

theorem test_ld_T51_address_wraps :
    let t := after (writeMemory (launch 0xFF80 0x20FF) 0x0080 0x0042)
    (t.readReg 0, t.flags, t.pc) = (0x0042, ⟨false, false, true⟩, 0xFF81) := by decide
theorem test_ld_T52_zero_sets_z :
    let t := after (withReg (launch 0x3000 0x2100) 0 0x0005)
    (t.readReg 0, t.flags) = (0x0000, ⟨false, true, false⟩) := by decide
theorem test_ldi_T53_V3 :
    let t := after (writeMemory (writeMemory (launch 0x2FFF 0xA400) 0x3000 0x4000) 0x4000 0x1234)
    (t.readReg 2, t.flags, t.pc) = (0x1234, ⟨false, false, true⟩, 0x3000) := by decide
theorem test_ldr_T54_offset_is_signed :
    (after (writeMemory (withReg (launch 0x3000 0x673F) 4 0x4000) 0x3FFF 0x0001)).readReg 3 = 0x0001 := by decide
theorem test_ldr_T56_base_overwritten :
    let t := after (withReg (launch 0x3000 0x66C0) 3 0x4000)
    (t.readReg 3, t.flags) = (0x0000, ⟨false, true, false⟩) := by decide
theorem test_lea_T58_wraps_and_sets_flags :
    let t := after (launch 0x0000 0xE1FE)
    (t.readReg 0, t.flags) = (0xFFFF, ⟨true, false, false⟩) := by decide
theorem test_st_T60_overwrites_its_own_word :
    let t := after (withReg (launch 0x3000 0x33FF) 1 0xABCD)
    (t.load 0x3000, t.pc) = (0xABCD, 0x3001) := by decide
theorem test_st_T61_leaves_the_flags :
    (after (withFlags (launch 0x3000 0x3000) true false false)).flags = ⟨true, false, false⟩ := by decide
theorem test_sti_T62 :
    (after (writeMemory (withReg (launch 0x3000 0xB401) 2 0x0077) 0x3002 0x5000)).load 0x5000 = 0x0077 := by decide
theorem test_str_T63_offset_is_unsigned :
    let t := after (withReg (withReg (launch 0x3000 0x773F) 3 0x00AA) 4 0x4000)
    (t.load 0x403F, t.load 0x3FFF) = (0x00AA, 0x0000) := by decide
theorem test_str_T65_address_wraps :
    (after (withReg (withReg (launch 0x3000 0x773F) 3 0x0001) 4 0xFFF0)).load 0x002F = 0x0001 := by decide

/-! ## System (section 2.4) and engine (section 2.5) -/

theorem test_trap_T71_halts :
    let s := launch 0x3000 0xFF25
    ((after s).running, (after s).pc, (after s).processed, outcome s) = (false, 0x3001, 1, some .halted) := by decide
theorem test_trap_T72_does_nothing :
    let s := withFlags (launch 0x3000 0xF021) false false true
    (after s, outcome s) = ({ s with pc := 0x3001, processed := 1 }, some .completed) := by decide
theorem test_rti_T74_user :
    let s := launch 0x3000 0x8000
    (after s, outcome s) = ({ s with faultLatch := some ⟨.privilegeError, .rti, 0x3000, 0x8000⟩ },
      some (.fault .privilegeError)) := by decide
theorem test_rti_T76_supervisor :
    let s := setSupervisor (launch 0x3000 0x8FFF) true
    (after s, outcome s) = ({ s with pc := 0x3001, processed := 1 }, some .completed) := by decide
theorem test_invalid_T78 :
    let s := setSupervisor (launch 0x3000 0xDFFF) true
    (after s, outcome s) = ({ s with faultLatch := some ⟨.decodeError, .invalid, 0x3000, 0xDFFF⟩ },
      some (.fault .decodeError)) := by decide
theorem test_fault_T87_advanced_pc :
    ((launch 0x3000 0xD000).advance.raiseWith .advanced .decodeError .invalid 0xD000).pc = 0x3001 := by decide
theorem test_fetch_T80_top_of_memory :
    let t := after (launch 0xFFFF 0x1021)
    (t.readReg 0, t.pc) = (0x0001, 0x0000) := by decide
theorem test_step_T81_after_halt :
    let s := after (launch 0x3000 0xF025)
    (after s, outcome s) = (s, some .noEffect) := by decide
theorem test_step_T82_after_fault :
    let s := after (launch 0x3000 0xD000)
    (after s, outcome s) = (s, some .noEffect) := by decide
theorem test_host_T84_write_seen_by_fetch :
    let s := writeMemory (after (launch 0x3000 0xF000)) 0x3001 0xF025
    (outcome s, (after s).pc, (after s).processed) = (some .halted, 0x3002, 2) := by decide
theorem test_host_T85_T86 :
    let s := setPC (writeRegister State.reset 2 0x8000) 0x4000
    (getFlags s, s.pc, s.processed) = (0b100, 0x4000, 0) := by decide
theorem test_boundary_V7_address_line :
    lineToWord ['0','0','1','1','0','0','0','0','0','0','0','0','0','0','0','0'] = some 0x3000 := by decide
theorem test_boundary_refuses_short_line : lineToWord ['1'] = none := by decide
theorem test_withFetchWord : (State.reset.withFetchWord 16 0xF025).nextInstr = .trap 0x25 := by decide
theorem test_statusOutputs_P5 :
    let o := statusOutputs (after (launch 0x3001 0x8000))
    (o.status, o.pc, o.running, o.causeCode, o.rejectedOpcode) = (.faulted, 0x3001, true, some 2, some "RTI") := by decide
theorem test_status_idle : State.reset.status = .idle := by decide
theorem test_parameters :
    (Config.faultPc, Config.strOffsetExt, FaultKind.decodeError.code, FaultKind.privilegeError.code) =
      (FaultPc.precise, OffsetExt.zext, 1, 2) := by decide

/-! ## Witnesses: concrete states and operands that meet an obligation's hypotheses -/

theorem witness_DontCareBitsAreIgnored :
    (⟨"AND", 0x5000, 0xF020, 0x0018⟩ : TableRow) ∈ opcodeTable ∧
    (⟨"AND", 0x5000, 0xF020, 0x0018⟩ : TableRow).admits 0x5640 = true ∧
    ((0x5640 : Word) ^^^ 0x5658) &&& ~~~0x0018 = 0 ∧ "AND" ≠ "RTI" ∧ "AND" ≠ "INVALID" := by decide
theorem witness_IgnoredBitsShowOnlyInTheFaultRecord :
    (setSupervisor State.reset true).supervisor = true ∧ State.reset.supervisor = false := by decide
theorem witness_EncodeDecodeKeepsEveryReadBit :
    ("RTI" ∈ opcodeTable.map (fun r => r.mnemonic)) ∧ "INVALID" ∈ opcodeTable.map (fun r => r.mnemonic) := by decide
theorem witness_IllegalWordsAreD000ToDFFF :
    (decode 0xCFFF).wellFormed = true ∧ (decode 0xD000).wellFormed = false ∧ (decode 0xDFFF).wellFormed = false ∧
    (decode 0xE000).wellFormed = true := by decide
theorem witness_DecodeReadsOperateFields :
    let f := fun w : Word => (w.extractLsb' 12 4, w.getLsbD 5)
    f 0x1000 = (0b0001, false) ∧ f 0x1FFF = (0b0001, true) ∧ f 0x5FDF = (0b0101, false) ∧ f 0x5020 = (0b0101, true) ∧
    (0x9FFF : Word).extractLsb' 12 4 = 0b1001#4 := by decide
theorem witness_DecodeReadsControlAndSystemFields :
    let f := fun w : Word => (w.extractLsb' 12 4, w.getLsbD 11)
    f 0x0FFF = (0b0000, true) ∧ f 0xC000 = (0b1100, false) ∧ f 0x4FFF = (0b0100, true) ∧ f 0x47FF = (0b0100, false) ∧
    f 0x8FFF = (0b1000, true) ∧ f 0xF025 = (0b1111, false) ∧ f 0xDFFF = (0b1101, true) := by decide
theorem witness_DecodeReadsLoadStoreFields :
    let f := fun w : Word => w.extractLsb' 12 4
    f 0x2FFF = 0b0010 ∧ f 0xA000 = 0b1010 ∧ f 0x6FFF = 0b0110 ∧ f 0xE000 = 0b1110 ∧ f 0x3FFF = 0b0011 ∧
    f 0xB000 = 0b1011 ∧ f 0x7FFF = 0b0111 := by decide
theorem witness_SetccGivesTheSignAsOneFlag :
    (0x8000 : Word).getLsbD 15 = true ∧ (0x7FFF : Word).getLsbD 15 = false ∧ (0x7FFF : Word) ≠ 0x0000 ∧
    (0x0001 : Word).getLsbD 15 = false := by decide
theorem witness_RegisterWritePath :
    (∃ t, exec (.lea 7 0) State.reset = .next t ∧ (Instr.lea 7 0).opcode ∈ [Opcode.add, .and, .not, .ld, .ldi, .ldr, .lea]) ∧
    (∃ t, exec (.str 7 0 0) State.reset = .next t ∧
      (Instr.str 7 0 0).opcode ∉ [Opcode.add, .and, .not, .ld, .ldi, .ldr, .lea]) :=
  ⟨⟨_, rfl, by decide⟩, ⟨_, rfl, by decide⟩⟩
theorem witness_FlagsAreReadByBrOnly :
    (∃ t, exec (.br 7 0) State.reset = .next t ∧ (Instr.br 7 0).opcode = .br) ∧
    (∃ t, exec (.add 0 0 0) State.reset = .next t ∧ (Instr.add 0 0 0).opcode ∈ [Opcode.add, .and, .not, .ld, .ldi, .ldr, .lea]) ∧
    (∃ t, exec (.trap 0) State.reset = .next t ∧
      (Instr.trap 0).opcode ∈ [Opcode.jmp, .jsr, .st, .sti, .str, .rti, .trap, .invalid]) :=
  ⟨⟨_, rfl, by decide⟩, ⟨_, rfl, by decide⟩, ⟨_, rfl, by decide⟩⟩
theorem witness_CanonicalMemoriesThatReadAlikeAreEqual :
    let m : Memory := [(0, 1), (65535, 2)]
    m.wf ∧ ∀ a : Word, m.read a = m.read a := ⟨by decide, fun _ => rfl⟩
theorem witness_SignAndZeroExtension : 0 < 5 ∧ 5 ≤ 16 ∧ 15 < 16 ∧ 0 < 16 ∧ 16 ≤ 16 := by decide
theorem witness_EffectiveAddressesWrap :
    (Instr.st 0 0).opcode ∈ [Opcode.ld, .ldi, .ldr, .lea, .st, .sti, .str] ∧
    (launch 0xFFFF 0).pcRelative 1 = 0x0000 ∧ (launch 0x0000 0).pcRelative 0x1FF = 0xFFFF := by decide
theorem witness_TrapHaltsOnVector25Only : (0x24 : BitVec 8) ≠ 0x25 ∧ (0x26 : BitVec 8) ≠ 0x25 := by decide
theorem witness_HaltIsNoException :
    (launch 0x3000 0xF025).stopped = false ∧ (launch 0x3000 0xF025).nextInstr = .trap 0x25 := by decide
theorem witness_RtiHasNoEffectInSupervisorMode : (setSupervisor State.reset true).supervisor = true := by decide
theorem witness_RtiTrapsInUserMode : State.reset.supervisor = false := by decide
theorem witness_OnlyRtiReadsTheMode :
    (Instr.trap 0x25).opcode ≠ .rti ∧ ∃ t, exec (.trap 0x25) State.reset = .next t := ⟨by decide, _, rfl⟩
theorem witness_StepRunsTheDecodedInstruction :
    let s := launch 0x3000 0x1021
    s.faultLatch = none ∧ s.running = true ∧ ∃ t, exec (decode (s.load s.pc)) { s with pc := s.pc + 1 } = .next t :=
  ⟨by decide, by decide, _, rfl⟩
theorem witness_StoppedEngineDoesNothing :
    (after (launch 0x3000 0xF025)).running = false ∧ (after (launch 0x3000 0xD000)).faultLatch ≠ none := by decide
theorem witness_FaultsArePrecise :
    let s := launch 0x3000 0xD000
    let u := launch 0xFFFF 0x8FFF
    s.faultLatch = none ∧ s.running = true ∧ (s.load s.pc).extractLsb' 12 4 = 0b1101#4 ∧
    u.faultLatch = none ∧ u.running = true ∧ (u.load u.pc).extractLsb' 12 4 = 0b1000#4 ∧ u.supervisor = false := by decide
theorem witness_OutcomeAndStatusOfALiveStep :
    State.reset.stopped = false ∧ outcome (launch 0x3000 0xD000) = some (.fault .decodeError) ∧
    outcome (launch 0x3000 0x8000) = some (.fault .privilegeError) ∧ outcome (launch 0x3000 0xF025) = some .halted ∧
    outcome (launch 0x3000 0xF024) = some .completed := by decide
theorem witness_ProcessedCountsCompletions : ∃ t o, engineStep (launch 0x3000 0xF025) = .next (t, o) := ⟨_, _, rfl⟩
theorem witness_PcAdvancesUnlessControlTransfers :
    let s := launch 0xFFFF 0x1021
    s.stopped = false ∧ (∃ t, step s = .next t ∧ t.faultLatch = none) ∧
    s.nextInstr.opcode ∉ [Opcode.br, .jmp, .jsr] := ⟨by decide, ⟨_, rfl, by decide⟩, by decide⟩
theorem witness_OnlyStoresWriteMemory :
    (∃ t, step (launch 0x3000 0x2202) = .next t) ∧ (launch 0x3000 0x2202).nextInstr.opcode ∉ [Opcode.st, .sti, .str] :=
  ⟨⟨_, rfl⟩, by decide⟩
theorem witness_NoStepChangesTheMode : ∃ t, step (setSupervisor (launch 0x3000 0x8000) true) = .next t := ⟨_, rfl⟩
theorem witness_StoreIsSeenByTheNextFetch_st :
    let s := withReg (launch 0xFFFF 0x3200) 1 0xF025
    s.stopped = false ∧ (∃ t, step s = .next t) ∧ s.nextInstr = .st 1 0 ∧
    s.pc + 1 + (0 : BitVec 9).signExtend 16 = s.pc + 1 := ⟨by decide, ⟨_, rfl⟩, by decide, by decide⟩
theorem witness_StoreIsSeenByTheNextFetch_sti :
    let s := writeMemory (launch 0x3000 0xB201) 0x3002 0x3001
    s.stopped = false ∧ (∃ t, step s = .next t) ∧ s.nextInstr = .sti 1 1 ∧
    s.load (s.pc + 1 + (1 : BitVec 9).signExtend 16) = s.pc + 1 := ⟨by decide, ⟨_, rfl⟩, by decide, by decide⟩
theorem witness_StoreIsSeenByTheNextFetch_str :
    let s := withReg (launch 0x3000 0x72BF) 2 0x2FC2
    s.stopped = false ∧ (∃ t, step s = .next t) ∧ s.nextInstr = .str 1 2 63 ∧
    s.readReg 2 + (63 : BitVec 6).setWidth 16 = s.pc + 1 := ⟨by decide, ⟨_, rfl⟩, by decide, by decide⟩
theorem witness_BrFallsThroughBeforeAnyRegisterWrite :
    let s := launch 0x3000 0x0E05
    s.stopped = false ∧ s.flags.allClear = true ∧ s.nextInstr = .br 0b111 5 := by decide
theorem witness_ExactlyOneFlagStaysSet :
    let s := writeRegister State.reset 0 0x0000
    s.flags.atMostOne = true ∧ s.flags.allClear = false ∧ ∃ t r, HostOp.step.apply s = .next (t, r) :=
  ⟨by decide, by decide, _, _, rfl⟩

theorem reset_hostInv : State.reset.HostInv :=
  ⟨State.reset_mem_wf, by decide, fun _ => State.reset_readReg, by decide⟩
theorem witness_StepKeepsTheInvariant : ∃ s t : State, s.Inv ∧ step s = .next t :=
  ⟨State.reset, _, ⟨reset_hostInv, fun _ h => nomatch h⟩, rfl⟩
theorem witness_SessionsKeepTheHostInvariant :
    ∃ t rs, State.reset.HostInv ∧
      session [.writeMemory 0x3000 0xF025, .setPC 0x3000, .run 3, .readStatus] State.reset = .next (t, rs) :=
  ⟨_, _, reset_hostInv, rfl⟩
theorem witness_NothingClearsAFaultOrAHalt :
    (∃ t rs, session [.step, .setPC 0, .run 2] (after (launch 0x3000 0xF025)) = .next (t, rs)) ∧
    (∃ t rs, session [.step, .setPC 0, .run 2] (after (launch 0x3000 0xD000)) = .next (t, rs)) :=
  ⟨⟨_, _, rfl⟩, ⟨_, _, rfl⟩⟩
theorem witness_RunEndsTheSameUnderMoreFuel :
    ∃ t, run 1 (launch 0x3000 0xF025) = .next (t, .halted) ∧ StepOutcome.halted ≠ .completed := ⟨_, rfl, by decide⟩
theorem witness_RunRepeatsStepWhileItCompletes :
    let s := launch 0x3000 0xD000
    let u := launch 0x3000 0x8000
    (∃ t, engineStep (launch 0x3000 0x1021) = .next (t, .completed)) ∧
    (∃ t, engineStep s = .next (t, .fault .decodeError) ∧ s.stopped = false ∧ s.nextInstr.opcode = .invalid) ∧
    (∃ t, engineStep u = .next (t, .fault .privilegeError) ∧ u.stopped = false ∧ u.nextInstr.opcode = .rti ∧
      u.supervisor = false) := ⟨⟨_, rfl⟩, ⟨_, rfl, by decide⟩, ⟨_, rfl, by decide⟩⟩
theorem witness_StatusOutputsShowTheState :
    State.reset.faultLatch = none ∧ (∃ t, engineStep (launch 0x3000 0xDFFF) = .next (t, .fault .decodeError)) ∧
    (∃ t, engineStep (launch 0x3000 0x8FFF) = .next (t, .fault .privilegeError)) := ⟨by decide, ⟨_, rfl⟩, ⟨_, rfl⟩⟩
theorem witness_HostWaitsWhileRunIsInProgress :
    (∃ t, run 2 State.reset = .next (t, .completed)) ∧
    (∃ t u, run 2 (launch 0x3000 0xF025) = .next (t, .halted) ∧ StepOutcome.halted ≠ .completed ∧
      session [.setPC 5] t = .next (u, [.done])) ∧
    (∃ t, session [.setPC 4, .run 2, .setPC 5] State.reset = .next (t, [.done, .pending]) ∧ t.pc = 6) :=
  ⟨⟨_, rfl⟩, ⟨_, _, rfl, by decide, rfl⟩, ⟨_, rfl, by decide⟩⟩
theorem witness_LoadImagePlacesItsWords :
    ([0xF025, 0x0000] : List Word).length ≤ 65536 ∧ (0 : Nat) < ([0xF025, 0x0000] : List Word).length ∧
    ∀ j < ([0xF025, 0x0000] : List Word).length, (0x2FFF : Word) ≠ 0x3000 + BitVec.ofNat 16 j := by decide
theorem witness_BoundaryLinesAreWords : (0 : Nat) < 16 ∧ (15 : Nat) < 16 ∧ lineToWord (wordToLine 0x8001) = some 0x8001 := by decide
theorem witness_MalformedImagesAreRefused :
    linesToWords [] = some [] ∧ linesToWords [['2']] = none ∧
    lineToWord ['0','0','0','0','0','0','0','0','0','0','0','0','0','0','0','x'] = none := by decide

end Sys2Proof.Tests
end

/-! The extensions of a field to a word, bit by bit (00_scope.md R10). -/

namespace Sys2Proof.Machine

/-- From bit `k` on, each bit is a copy of the field's leading bit `k - 1`, which is the library's `msb`. -/
theorem getLsbD_sext16 {k j : Nat} (f : BitVec k) (hj : j < 16) :
    (sext16 f).getLsbD j = if j < k then f.getLsbD j else f.getLsbD (k - 1) := by
  rw [sext16, BitVec.getLsbD_signExtend, BitVec.msb_eq_getLsbD_last, decide_eq_true hj, Bool.true_and]

/-- Bits within the word are the field's own, and a field has no set bit at or above its width. -/
theorem getLsbD_zext16 {k j : Nat} (f : BitVec k) (hj : j < 16) :
    (zext16 f).getLsbD j = if j < k then f.getLsbD j else false := by
  rw [zext16, BitVec.getLsbD_setWidth, decide_eq_true hj, Bool.true_and]
  split
  · rfl
  · next hk => exact BitVec.getLsbD_of_ge f j (Nat.le_of_not_lt hk)

/-- Settles O16, from the two bit equations; they need only that the bit lies within the word. -/
theorem signAndZeroExtension : Obligations.SignAndZeroExtension :=
  fun _ f _ _ _ hj => ⟨getLsbD_sext16 f hj, getLsbD_zext16 f hj⟩

end Sys2Proof.Machine

/-! What the fetched word says of the instruction it decodes to. -/

namespace Sys2Proof

theorem Instr.ne_trap_of_opcode {i : Instr} (h : i.opcode ≠ .trap) (v : BitVec 8) : i ≠ .trap v :=
  fun e => h (congrArg Instr.opcode e)

/-- R81, R91: the opcode field names the decoded opcode. -/
theorem opcode_decode_iff {w : Word} {o : Opcode} : (decode w).opcode = o ↔ opcodeField w = opcodeBits o := by
  rw [opcode_decode]
  constructor
  · rintro rfl
    rw [opcodeBits_opcodeOfBits]
  · intro h
    rw [h, opcodeOfBits_opcodeBits]

/-- R83, R84: a TRAP is its opcode and its vector; bits [11:8] are not read. -/
theorem decode_eq_trap_iff {w : Word} {v : BitVec 8} :
    decode w = .trap v ↔ opcodeField w = opcodeBits .trap ∧ bitField w 0 8 = v := by
  have hdec (ho : opcodeField w = opcodeBits .trap) : decode w = .trap (bitField w 0 8) := by
    simp [decode, ho]
  constructor
  · intro h
    have ho : opcodeField w = opcodeBits .trap := opcode_decode_iff.mp (by rw [h]; rfl)
    exact ⟨ho, Instr.trap.inj ((hdec ho).symm.trans h)⟩
  · rintro ⟨ho, rfl⟩
    exact hdec ho

/-- R81: a word is its opcode field above its low 12 bits. -/
theorem opcodeField_above_low (w : Word) : fieldAt (opcodeField w) 12 ||| fieldAt (bitField w 0 12) 0 = w := by
  apply bits_eq
  intro j hj
  by_cases hlow : j < 12
  · simp [-BitVec.getLsbD_eq_getElem, hj, hlow]
  · have hfield : j - 12 < 4 := by omega
    have hplace : 12 + (j - 12) = j := by omega
    simp [-BitVec.getLsbD_eq_getElem, opcodeField, hj, hlow, hfield, hplace]

/-- R34: an instruction that can fault (RTI, INVALID) keeps its 12 low bits, so it encodes to the word it came from. -/
theorem encode_decode_of_faulting {w : Word} (h : (decode w).opcode = .rti ∨ (decode w).opcode = .invalid) :
    encode (decode w) = w := by
  rw [opcode_decode] at h
  have hbits : opcodeBits (opcodeOfBits (opcodeField w)) = opcodeField w := opcodeBits_opcodeOfBits _
  have hword := opcodeField_above_low w
  rcases h with h | h <;> rw [h] at hbits <;>
    simpa [encode, decode, h, Instr.operandBits, Instr.opcode, hbits] using hword

end Sys2Proof

/-! What the retirement of an instruction leaves of its state, field by field, and what one instruction and one step do to
the mode, the count, the latch and the flags. -/

namespace Sys2Proof.Machine

/-! ## Retirement (30_encoding.md R90) -/

/-- R32, R254: the engine counts an instruction or, if it faulted, leaves the state alone. -/
theorem State.retire_fst (t : State) : t.retire.1 = t ∨ t.retire.1 = t.count := by
  cases h : t.faultLatch with
  | none => exact .inr (by rw [State.retire_of_latch_none h])
  | some r => exact .inl (by rw [State.retire_of_latch_some h])

@[simp] theorem State.retire_regs (t : State) : t.retire.1.regs = t.regs := by
  rcases t.retire_fst with h | h <;> simp [h]

@[simp] theorem State.retire_pc (t : State) : t.retire.1.pc = t.pc := by
  rcases t.retire_fst with h | h <;> simp [h]

@[simp] theorem State.retire_flags (t : State) : t.retire.1.flags = t.flags := by
  rcases t.retire_fst with h | h <;> simp [h]

@[simp] theorem State.retire_supervisor (t : State) : t.retire.1.supervisor = t.supervisor := by
  rcases t.retire_fst with h | h <;> simp [h]

@[simp] theorem State.retire_running (t : State) : t.retire.1.running = t.running := by
  rcases t.retire_fst with h | h <;> simp [h]

@[simp] theorem State.retire_faultLatch (t : State) : t.retire.1.faultLatch = t.faultLatch := by
  rcases t.retire_fst with h | h <;> simp [h]

@[simp] theorem State.retire_mem (t : State) : t.retire.1.mem = t.mem := by
  rcases t.retire_fst with h | h <;> simp [h]

theorem State.le_retire_processed (t : State) : t.processed ≤ t.retire.1.processed := by
  rcases t.retire_fst with h | h <;> simp [h]

/-- R32: retirement counts exactly the outcomes Completed and Halted. -/
theorem State.retire_processed (t : State) : t.retire.1.processed =
    t.processed + (if t.retire.2 = .completed ∨ t.retire.2 = .halted then 1 else 0) := by
  cases h : t.faultLatch with
  | none => cases hr : t.running <;> simp [State.retire_of_latch_none h, hr]
  | some r => simp [State.retire_of_latch_some h]

/-! ## Effects -/

/-- R29: no effect touches the mode. -/
theorem Effect.supervisor_eq {s t : State} {i : Instr} (he : Effect s i t) : t.supervisor = s.supervisor := by
  cases he <;> rfl

/-- R32: the count is the engine's, not the instruction's. -/
theorem Effect.processed_eq {s t : State} {i : Instr} (he : Effect s i t) : t.processed = s.processed := by
  cases he <;> rfl

/-- R22, R23: the flags are kept or come from setcc. -/
theorem Effect.flags_cases {s t : State} {i : Instr} (he : Effect s i t) :
    t.flags = s.flags ∨ ∃ v, t.flags = setcc v := by
  cases he with
  | wroteReg d v => exact .inr ⟨v, rfl⟩
  | stored | jumped | fellThrough | gatePassed | gateClosed | halted | ignoredTrap | rejected => exact .inl rfl

/-- R250, R254: the latch is kept, or the instruction raised one of the two exceptions. -/
theorem Effect.faultLatch_cases {s t : State} {i : Instr} (he : Effect s i t) :
    t.faultLatch = s.faultLatch ∨
      (i.opcode = .rti ∧ s.supervisor = false ∧ t = s.raise .privilegeError i.opcode (encode i)) ∨
      (i.opcode = .invalid ∧ t = s.raise .decodeError i.opcode (encode i)) := by
  cases he with
  | gateClosed x hu => exact .inr (.inl ⟨rfl, hu, rfl⟩)
  | rejected x => exact .inr (.inr ⟨rfl, rfl⟩)
  | wroteReg | stored | jumped | fellThrough | gatePassed | halted | ignoredTrap => exact .inl rfl

/-- R92: which outcome the retirement of an effect on a live engine gives, and for which instruction. -/
theorem Effect.outcome_cases {s t : State} {i : Instr} (he : Effect s i t) (hlatch : s.faultLatch = none)
    (hrun : s.running = true) :
    (t.retire.2 = .completed ∧ i.opcode ≠ .invalid ∧ (i.opcode = .rti → s.supervisor = true) ∧ i ≠ .trap haltVector) ∨
      (t.retire.2 = .halted ∧ i = .trap haltVector) ∨
      (t.retire.2 = .fault .privilegeError ∧ i.opcode = .rti ∧ s.supervisor = false) ∨
      (t.retire.2 = .fault .decodeError ∧ i.opcode = .invalid) := by
  have completes {u : State} (hl : u.faultLatch = none) (hr : u.running = true) : u.retire.2 = .completed := by
    simp [State.retire_of_latch_none hl, hr]
  cases he with
  | wroteReg d v h | stored a v h | jumped a h =>
    refine .inl ⟨completes hlatch hrun, ?_, ?_, Instr.ne_trap_of_opcode ?_ _⟩ <;> intro ho <;> simp [ho] at h
  | fellThrough nzp o => exact .inl ⟨completes hlatch hrun, nofun, nofun, nofun⟩
  | gatePassed x hs => exact .inl ⟨completes hlatch hrun, nofun, fun _ => hs, nofun⟩
  | ignoredTrap v hv => exact .inl ⟨completes hlatch hrun, nofun, nofun, fun h => hv (Instr.trap.inj h)⟩
  | halted => exact .inr (.inl ⟨by rw [State.retire_of_latch_none (t := s.halt) hlatch]; rfl, rfl⟩)
  | gateClosed x hu => exact .inr (.inr (.inl ⟨rfl, rfl, hu⟩))
  | rejected x => exact .inr (.inr (.inr ⟨rfl, rfl⟩))

/-- The flags after a step are those before it or come from setcc. -/
theorem step_flags_cases {s u : State} (h : step s = .next u) : u.flags = s.flags ∨ ∃ v, u.flags = setcc v := by
  rcases step_cases h with ⟨-, rfl⟩ | ⟨-, i, t, -, he, rfl⟩
  · exact .inl rfl
  · simpa using he.flags_cases

end Sys2Proof.Machine

/-! The invariants: each operation of the state keeps the host's part, and a fault's record fits its state. -/

namespace Sys2Proof.Machine

/-! ## The host's part, kept by each operation -/

/-- Only memory, registers and flags count, and that a halt was counted. -/
theorem State.HostInv.congr {s t : State} (hs : s.HostInv) (hmem : t.mem = s.mem) (hregs : t.regs = s.regs)
    (hflags : t.flags = s.flags) (hhalt : t.running = false → 0 < t.processed) : t.HostInv where
  memory := hmem ▸ hs.memory
  oneFlag := hflags ▸ hs.oneFlag
  unwritten hclear r := (State.readReg_congr hregs r).trans (hs.unwritten (hflags ▸ hclear) r)
  haltCounted := hhalt

theorem State.HostInv.store {s : State} (hs : s.HostInv) (a v : Word) : (s.store a v).HostInv where
  memory := Memory.write_wf hs.memory a v
  oneFlag := hs.oneFlag
  unwritten := hs.unwritten
  haltCounted := hs.haltCounted

/-- R24: a register write sets exactly one flag, so nothing is claimed of the registers any more. -/
theorem State.HostInv.writeReg {s : State} (hs : s.HostInv) (d : RegIdx) (v : Word) : (s.writeReg d v).HostInv where
  memory := hs.memory
  oneFlag := setcc_atMostOne v
  unwritten hclear := by simp [setcc_not_allClear] at hclear
  haltCounted := hs.haltCounted

theorem State.HostInv.jump {s : State} (hs : s.HostInv) (a : Word) : (s.jump a).HostInv :=
  hs.congr rfl rfl rfl hs.haltCounted

theorem State.HostInv.raise {s : State} (hs : s.HostInv) (k : FaultKind) (o : Opcode) (w : Word) :
    (s.raise k o w).HostInv :=
  hs.congr rfl rfl rfl hs.haltCounted

theorem State.HostInv.setSupervisor {s : State} (hs : s.HostInv) (b : Bool) : (setSupervisor s b).HostInv :=
  hs.congr rfl rfl rfl hs.haltCounted

theorem State.HostInv.retire {t : State} (ht : t.HostInv) : t.retire.1.HostInv :=
  ht.congr t.retire_mem t.retire_regs t.retire_flags fun hrun =>
    (ht.haltCounted (t.retire_running ▸ hrun)).trans_le t.le_retire_processed

/-- R31, R32: the halt itself breaks the invariant, and counting the halting TRAP restores it. -/
theorem State.HostInv.halt_retire {s : State} (hs : s.HostInv) (hlatch : s.faultLatch = none) :
    s.halt.retire.1.HostInv := by
  rw [State.retire_of_latch_none (t := s.halt) hlatch]
  exact hs.congr rfl rfl rfl fun _ => Nat.succ_pos _

theorem step_keeps_hostInv {s u : State} (hs : s.HostInv) (h : step s = .next u) : u.HostInv := by
  rcases step_cases h with ⟨-, rfl⟩ | ⟨hlive, i, t, -, he, rfl⟩
  · exact hs
  · have hadv : s.advance.HostInv := hs.jump _
    cases he with
    | wroteReg d v => exact (hadv.writeReg d v).retire
    | stored a v => exact (hadv.store a v).retire
    | jumped a => exact (hadv.jump a).retire
    | fellThrough | gatePassed | ignoredTrap => exact hadv.retire
    | gateClosed | rejected => exact (hadv.raise _ _ _).retire
    | halted => exact hadv.halt_retire (State.stopped_eq_false hlive).1

theorem hostOp_keeps_hostInv {op : HostOp} {s t : State} {r : HostReply} (hs : s.HostInv)
    (h : op.apply s = .next (t, r)) : t.HostInv := by
  rcases hostOp_apply_cases h with
    rfl | ⟨a, v, rfl⟩ | ⟨i, v, rfl⟩ | ⟨a, rfl⟩ | ⟨b, rfl⟩ | hstep | ⟨k, o, hrun⟩
  · exact hs
  · exact hs.store a v
  · exact hs.writeReg i v
  · exact hs.jump a
  · exact hs.setSupervisor b
  · exact step_keeps_hostInv hs hstep
  · exact run_keeps State.HostInv (fun _ _ => step_keeps_hostInv) k s t o hs hrun

/-! ## The latch -/

/-- R34, R254: the exception an engine's fetched instruction raises leaves a record that fits: the pc is back at the
instruction, and nothing was written since the fetch. -/
theorem raise_advance_fits {s : State} {k : FaultKind} (hrun : s.running = true)
    (hcause : (k = .decodeError ∧ s.nextInstr.opcode = .invalid) ∨
      (k = .privilegeError ∧ s.nextInstr.opcode = .rti ∧ s.supervisor = false)) :
    FaultRecord.Fits ⟨k, s.nextInstr.opcode, s.advance.pc - 1, encode s.nextInstr⟩
      (s.advance.raise k s.nextInstr.opcode (encode s.nextInstr)) where
  address := rfl
  word := by
    have hword : encode s.nextInstr = s.fetch := by
      apply encode_decode_of_faulting
      rcases hcause with ⟨-, ho⟩ | ⟨-, ho, -⟩
      · exact .inr ho
      · exact .inl ho
    simpa [BitVec.add_sub_cancel, State.fetch] using hword
  running := hrun
  cause := by
    rcases hcause with ⟨hk, ho⟩ | ⟨hk, ho, hu⟩
    · exact .inl ⟨hk, ho, by rw [opcodeField_encode, ho]⟩
    · exact .inr ⟨hk, ho, by rw [opcodeField_encode, ho], hu⟩

theorem step_keeps_latch {s u : State} (hs : ∀ r, s.faultLatch = some r → r.Fits s) (h : step s = .next u) :
    ∀ r, u.faultLatch = some r → r.Fits u := by
  rcases step_cases h with ⟨-, rfl⟩ | ⟨hlive, i, t, rfl, he, rfl⟩
  · exact hs
  · obtain ⟨hlatch, hrun⟩ := State.stopped_eq_false hlive
    intro r hr
    rcases he.faultLatch_cases with hkept | ⟨ho, hu, rfl⟩ | ⟨ho, rfl⟩
    · rw [State.retire_faultLatch, hkept] at hr
      exact absurd (hlatch.symm.trans hr) nofun
    · cases hr
      exact raise_advance_fits hrun (.inr ⟨rfl, ho, hu⟩)
    · cases hr
      exact raise_advance_fits hrun (.inl ⟨rfl, ho⟩)

/-- Settles O50: the host's part, and the latch. -/
theorem stepKeepsTheInvariant : Obligations.StepKeepsTheInvariant :=
  fun _ _ hs h => ⟨step_keeps_hostInv hs.toHostInv h, step_keeps_latch hs.latch h⟩

/-- Settles O51, by induction on the session's operations. -/
theorem sessionsKeepTheHostInvariant : Obligations.SessionsKeepTheHostInvariant :=
  session_keeps State.HostInv fun _ _ _ _ => hostOp_keeps_hostInv

/-- Settles O49. -/
theorem constructionMeetsTheInvariant : Obligations.ConstructionMeetsTheInvariant :=
  ⟨⟨State.reset_mem_wf, rfl, fun _ => State.reset_readReg, nofun⟩, nofun⟩

/-- Settles O48. -/
theorem constructionState : Obligations.ConstructionState :=
  ⟨State.reset_readReg, Memory.read_nil, rfl, rfl, rfl, rfl, rfl, rfl, rfl⟩

end Sys2Proof.Machine

/-! What no operation undoes: a recorded fault, a halt and the count; and what every step keeps. -/

namespace Sys2Proof.Machine

/-- `t` keeps what `s` shows of the past (R31, R32, R34): a recorded fault, a halt, and every counted instruction. -/
structure KeepsRecord (s t : State) : Prop where
  latch : s.faultLatch ≠ none → t.faultLatch = s.faultLatch
  halt : s.running = false → t.running = false
  count : s.processed ≤ t.processed

theorem KeepsRecord.of_eq {s t : State} (hlatch : t.faultLatch = s.faultLatch) (hrun : t.running = s.running)
    (hcount : t.processed = s.processed) : KeepsRecord s t :=
  ⟨fun _ => hlatch, hrun.trans, hcount.ge⟩

theorem KeepsRecord.refl (s : State) : KeepsRecord s s := .of_eq rfl rfl rfl

theorem KeepsRecord.trans {s t u : State} (h : KeepsRecord s t) (h' : KeepsRecord t u) : KeepsRecord s u where
  latch hs := by
    have ht := h.latch hs
    exact (h'.latch (ht ▸ hs)).trans ht
  halt hs := h'.halt (h.halt hs)
  count := h.count.trans h'.count

/-- R271, R272: a step that does anything starts without a fault and without a halt. -/
theorem step_keepsRecord {s u : State} (h : step s = .next u) : KeepsRecord s u := by
  rcases step_cases h with ⟨-, rfl⟩ | ⟨hlive, i, t, -, he, rfl⟩
  · exact .refl _
  · obtain ⟨hlatch, hrun⟩ := State.stopped_eq_false hlive
    exact {
      latch := fun hne => absurd hlatch hne
      halt := fun hhalt => absurd (hrun.symm.trans hhalt) nofun
      count := he.processed_eq.ge.trans t.le_retire_processed }

theorem hostOp_keepsRecord {op : HostOp} {s t : State} {r : HostReply} (h : op.apply s = .next (t, r)) :
    KeepsRecord s t := by
  rcases hostOp_apply_cases h with
    rfl | ⟨a, v, rfl⟩ | ⟨i, v, rfl⟩ | ⟨a, rfl⟩ | ⟨b, rfl⟩ | hstep | ⟨k, o, hrun⟩
  · exact .refl _
  · exact .of_eq rfl rfl rfl
  · exact .of_eq rfl rfl rfl
  · exact .of_eq rfl rfl rfl
  · exact .of_eq rfl rfl rfl
  · exact step_keepsRecord hstep
  · exact run_keeps (KeepsRecord s) (fun _ _ hp hu => hp.trans (step_keepsRecord hu)) k s t o (.refl s) hrun

/-- Settles O52, by induction on the session's operations. -/
theorem nothingClearsAFaultOrAHalt : Obligations.NothingClearsAFaultOrAHalt := by
  intro ops s t rs h
  obtain ⟨hlatch, hhalt, hcount⟩ := session_keeps (KeepsRecord s)
    (fun _ _ _ _ hp ha => hp.trans (hostOp_keepsRecord ha)) ops s t rs (.refl s) h
  exact ⟨hlatch, hhalt, hcount⟩

/-- Settles O44: neither the effect nor the retirement touches the mode. -/
theorem noStepChangesTheMode : Obligations.NoStepChangesTheMode := by
  intro s u h
  rcases step_cases h with ⟨-, rfl⟩ | ⟨-, i, t, -, he, rfl⟩
  · rfl
  · exact t.retire_supervisor.trans he.supervisor_eq

/-- Settles O41: a stopped engine counts nothing, a live one what retirement counts. -/
theorem processedCountsCompletions : Obligations.ProcessedCountsCompletions := by
  intro s u o h
  rcases engineStep_cases s with ⟨-, hs⟩ | ⟨-, i, t, -, he, hs⟩ <;> rw [hs] at h
  · cases h
    simp
  · have hretire : t.retire = (u, o) := Host.Outcome.next.inj h
    have hcount := t.retire_processed
    rwa [hretire, he.processed_eq] at hcount

/-- Settles O42: of the effects that neither jump nor fault, each leaves the advanced pc. -/
theorem pcAdvancesUnlessControlTransfers : Obligations.PcAdvancesUnlessControlTransfers := by
  intro s u hlive h hsafe hop
  rcases step_cases h with ⟨hstop, -⟩ | ⟨-, i, t, hi, he, rfl⟩
  · exact absurd (hlive.symm.trans hstop) nofun
  · rw [hi] at hop
    have hpc : t.pc = s.pc + 1 := by
      cases he with
      | wroteReg | stored | gatePassed | halted | ignoredTrap => rfl
      | jumped a hj => exact absurd (by simpa using hj) hop
      | fellThrough => simp [Instr.opcode] at hop
      | gateClosed | rejected => simp at hsafe
    rw [State.retire_pc, hpc, BitVec.toNat_add]
    rfl

/-! ## Exactly one flag (10_state.md R24) -/

/-- R24: exactly one flag is set. -/
def Flags.exactlyOne (f : Flags) : Prop := f.atMostOne = true ∧ f.allClear = false

theorem setcc_exactlyOne (v : Word) : (setcc v).exactlyOne := ⟨setcc_atMostOne v, setcc_not_allClear v⟩

theorem step_keeps_exactlyOne {s u : State} (hs : s.flags.exactlyOne) (h : step s = .next u) : u.flags.exactlyOne := by
  rcases step_flags_cases h with hf | ⟨v, hf⟩ <;> rw [hf]
  · exact hs
  · exact setcc_exactlyOne v

/-- Settles O47: an operation keeps the flags or sets them by setcc. -/
theorem exactlyOneFlagStaysSet : Obligations.ExactlyOneFlagStaysSet := by
  intro op s t r hone hset h
  have hs : s.flags.exactlyOne := ⟨hone, hset⟩
  rcases hostOp_apply_cases h with
    rfl | ⟨a, v, rfl⟩ | ⟨i, v, rfl⟩ | ⟨a, rfl⟩ | ⟨b, rfl⟩ | hstep | ⟨k, o, hrun⟩
  · exact hs
  · exact hs
  · exact setcc_exactlyOne v
  · exact hs
  · exact hs
  · exact step_keeps_exactlyOne hs hstep
  · exact run_keeps (fun x => x.flags.exactlyOne) (fun _ _ => step_keeps_exactlyOne) k s t o hs hrun

end Sys2Proof.Machine

/-! The flags and the register-write path (10_state.md R22, R23, R25). -/

namespace Sys2Proof.Machine

theorem setcc_of_neg {v : Word} (h : v.toInt < 0) : setcc v = ⟨true, false, false⟩ := by
  rcases setcc_cases v with ⟨-, e⟩ | ⟨h', -⟩ | ⟨h', -⟩
  · exact e
  · omega
  · omega

theorem setcc_of_pos {v : Word} (h : 0 < v.toInt) : setcc v = ⟨false, false, true⟩ := by
  rcases setcc_cases v with ⟨h', -⟩ | ⟨h', -⟩ | ⟨-, e⟩
  · omega
  · omega
  · exact e

/-- Settles O11: bit 15 is the word's sign. -/
theorem setccGivesTheSignAsOneFlag : Obligations.SetccGivesTheSignAsOneFlag := by
  intro v
  have hsign : v.getLsbD 15 = decide (v.toInt < 0) := by
    rw [← BitVec.msb_eq_toInt, BitVec.msb_eq_getLsbD_last]
  refine ⟨fun hbit => ?_, ?_, fun hbit hne => ?_⟩
  · have hneg : v.toInt < 0 := of_decide_eq_true (hsign ▸ hbit)
    exact ⟨setcc_of_neg hneg, hneg⟩
  · rintro rfl
    exact ⟨rfl, rfl⟩
  · have hnonneg : ¬ v.toInt < 0 := of_decide_eq_false (hsign ▸ hbit)
    have hnonzero : v.toInt ≠ 0 := fun h => hne (BitVec.eq_of_toInt_eq h)
    have hpos : 0 < v.toInt := by omega
    exact ⟨setcc_of_pos hpos, hpos⟩

/-- R22: the instructions that write a register do nothing else. -/
theorem Effect.wroteReg_of_writer {s t : State} {i : Instr} (he : Effect s i t)
    (hi : i.opcode ∈ [Opcode.add, .and, .not, .ld, .ldi, .ldr, .lea]) : ∃ d v, t = s.writeReg d v := by
  cases he with
  | wroteReg d v => exact ⟨d, v, rfl⟩
  | stored a v h | jumped a h => rcases h with h | h | h <;> simp [h] at hi
  | fellThrough | gatePassed | gateClosed | halted | ignoredTrap | rejected => simp [Instr.opcode] at hi

/-- R22: an instruction that is not one of them keeps every register and the flags. -/
theorem Effect.sameRegs_flags_of_nonwriter {s t : State} {i : Instr} (he : Effect s i t)
    (hi : i.opcode ∉ [Opcode.add, .and, .not, .ld, .ldi, .ldr, .lea]) : SameRegs s t ∧ t.flags = s.flags := by
  cases he with
  | wroteReg d v h => exact absurd (by simpa using h) hi
  | stored | jumped | fellThrough | gatePassed | gateClosed | halted | ignoredTrap | rejected =>
    exact ⟨fun _ => rfl, rfl⟩

/-- Settles O12. -/
theorem registerWritePath : Obligations.RegisterWritePath :=
  ⟨State.writeReg_writesReg, writeRegister_eq, fun _ _ _ h =>
    ⟨(exec_effect_of_next h).wroteReg_of_writer, (exec_effect_of_next h).sameRegs_flags_of_nonwriter⟩⟩

/-- R25: a register write overwrites the flags, and no operand reads them. -/
theorem exec_flags_of_writer {i : Instr} (hi : i.opcode ∈ [Opcode.add, .and, .not, .ld, .ldi, .ldr, .lea]) (s : State)
    (f : Flags) : exec i { s with flags := f } = exec i s := by
  cases i with
  | add | addi | and | andi | not | ld | ldi | ldr | lea => rfl
  | br | jmp | jsr | jsrr | st | sti | str | rti | trap | invalid => simp [Instr.opcode] at hi

theorem exec_rti_of_supervisor (x : BitVec 12) {s : State} (h : s.supervisor = true) : exec (.rti x) s = .next s :=
  if_pos h

theorem exec_rti_of_user (x : BitVec 12) {s : State} (h : ¬ s.supervisor = true) :
    exec (.rti x) s = .next (s.raise .privilegeError .rti (encode (.rti x))) :=
  if_neg h

theorem exec_trap_ignored {v : BitVec 8} (h : v ≠ haltVector) (s : State) : exec (.trap v) s = .next s :=
  congrArg Host.Outcome.next (if_neg h)

/-- R25: an instruction that writes no register carries other flags along, BR apart. -/
theorem exec_flags_of_nonwriter {i : Instr} {s t : State}
    (hi : i.opcode ∈ [Opcode.jmp, .jsr, .st, .sti, .str, .rti, .trap, .invalid]) (f : Flags) (h : exec i s = .next t) :
    exec i { s with flags := f } = .next { t with flags := f } := by
  cases i with
  | jmp | jsr | jsrr | st | sti | str | invalid => cases h; rfl
  | rti x =>
    by_cases hs : s.supervisor = true
    · rw [exec_rti_of_supervisor x hs] at h
      cases h
      exact exec_rti_of_supervisor x hs
    · rw [exec_rti_of_user x hs] at h
      cases h
      exact exec_rti_of_user x hs
  | trap v =>
    by_cases hv : v = haltVector
    · subst hv
      cases h
      rfl
    · rw [exec_trap_ignored hv] at h
      cases h
      exact exec_trap_ignored hv _
  | br | add | addi | and | andi | not | ld | ldi | ldr | lea => simp [Instr.opcode] at hi

/-- Settles O13. -/
theorem flagsAreReadByBrOnly : Obligations.FlagsAreReadByBrOnly := by
  intro i s t f h
  refine ⟨fun hbr => ?_, fun hi => (exec_flags_of_writer hi s f).trans h, fun hi => exec_flags_of_nonwriter hi f h⟩
  exact ((exec_effect_of_next h).sameRegs_flags_of_nonwriter (by simp [hbr])).2

end Sys2Proof.Machine

/-! The outcome of a live step and the status it leaves (30_encoding.md R92, 10_state.md R33). -/

namespace Sys2Proof.Machine

/-- R33: the status that retirement leaves is the one its outcome names. -/
theorem State.retire_status (t : State) :
    (t.retire.2 = .completed → t.retire.1.status = .running) ∧ (t.retire.2 = .halted → t.retire.1.status = .halted) ∧
      ∀ k, t.retire.2 = .fault k → t.retire.1.status = .faulted ∧ ∃ r, t.retire.1.faultLatch = some r ∧ r.kind = k := by
  cases h : t.faultLatch with
  | none => cases hr : t.running <;> simp [State.retire_of_latch_none h, State.status, h, hr]
  | some r => simp [State.retire_of_latch_some h, State.status, h]

/-- R92, R221, R250: each outcome of a live engine read back as the instruction that gives it. -/
theorem Effect.outcome_iff {s t : State} {i : Instr} (he : Effect s i t) (hlatch : s.faultLatch = none)
    (hrun : s.running = true) :
    (t.retire.2 = .fault .decodeError ↔ i.opcode = .invalid) ∧
      (t.retire.2 = .fault .privilegeError ↔ i.opcode = .rti ∧ s.supervisor = false) ∧
      (t.retire.2 = .halted ↔ i = .trap haltVector) ∧ t.retire.2 ≠ .noEffect := by
  rcases he.outcome_cases hlatch hrun with ⟨ho, hvalid, hgate, htrap⟩ | ⟨ho, rfl⟩ | ⟨ho, hi, hu⟩ | ⟨ho, hi⟩
  · simp +contextual [ho, hvalid, hgate, htrap]
  · simp [ho, Instr.opcode]
  · have htrap : i ≠ .trap haltVector := Instr.ne_trap_of_opcode (by simp [hi]) _
    simp [ho, hi, hu, htrap]
  · have htrap : i ≠ .trap haltVector := Instr.ne_trap_of_opcode (by simp [hi]) _
    simp [ho, hi, htrap]

/-- Settles O40: the outcome of each effect, with the opcode and the vector of the fetched word read back from the
instruction. -/
theorem outcomeAndStatusOfALiveStep : Obligations.OutcomeAndStatusOfALiveStep := by
  intro s hlive
  rcases engineStep_cases s with ⟨hstop, -⟩ | ⟨-, i, t, rfl, he, hstep⟩
  · exact absurd (hlive.symm.trans hstop) nofun
  obtain ⟨hlatch, hrun⟩ := State.stopped_eq_false hlive
  obtain ⟨hdecode, hprivilege, hhalt, hactive⟩ := he.outcome_iff hlatch hrun
  exact ⟨t.retire.1, t.retire.2, hstep, hdecode.trans opcode_decode_iff,
    hprivilege.trans (and_congr_left' opcode_decode_iff), hhalt.trans decode_eq_trap_iff, hactive, t.retire_status⟩

end Sys2Proof.Machine

/-! What one memory write does to the state (20_memory.md R52), and that the canonical form of memory says no more than
what each address reads as (R50). -/

namespace Sys2Proof.Machine

/-- R52: the frame of a store. -/
theorem State.store_storesWord (s : State) (a v : Word) : StoresWord a v s (s.store a v) where
  value := by simp [State.load_store]
  others b h := by simp [State.load_store, h]
  regs _ := rfl
  flags := rfl
  pc := rfl
  control := ⟨rfl, rfl, rfl, rfl⟩

/-- Settles O14. -/
theorem memoryWriteReplacesOneWord : Obligations.MemoryWriteReplacesOneWord :=
  State.store_storesWord

/-- A listed cell is what its address reads as: no cell before it has the same address. -/
theorem Memory.read_of_mem {m : Memory} {a v : Word} (h : m.Pairwise (fun c d => c.1 < d.1))
    (hc : (a.toNat, v) ∈ m) : m.read a = v := by
  induction m with
  | nil => cases hc
  | cons d rest ih =>
    obtain ⟨hd, hrest⟩ := List.pairwise_cons.mp h
    rcases List.mem_cons.mp hc with rfl | hc
    · simp [Memory.read]
    · simpa [Memory.read, (hd _ hc).ne] using ih hrest hc

/-- An address that does not read as unlisted is listed, with the word it reads as. -/
theorem Memory.mem_of_read_ne {m : Memory} {a : Word} (h : m.read a ≠ Memory.unlisted) : (a.toNat, m.read a) ∈ m := by
  induction m with
  | nil => exact absurd rfl h
  | cons d rest ih =>
    obtain ⟨k, v⟩ := d
    by_cases hk : k = a.toNat
    · simp [Memory.read, hk]
    · simp only [Memory.read, hk, if_false] at h ⊢
      exact List.mem_cons_of_mem _ (ih h)

theorem Memory.subset_of_read_eq {m n : Memory} (hm : m.wf) (h : ∀ a, m.read a = n.read a) : m ⊆ n := by
  rintro ⟨k, v⟩ hc
  obtain ⟨hrising, hcells⟩ := hm
  obtain ⟨hk, hv⟩ := hcells _ hc
  obtain ⟨a, rfl⟩ : ∃ a : Word, a.toNat = k := ⟨BitVec.ofNat 16 k, Nat.mod_eq_of_lt hk⟩
  have hread : n.read a = v := (h a).symm.trans (Memory.read_of_mem hrising hc)
  exact hread ▸ Memory.mem_of_read_ne (hread.trans_ne hv)

theorem Memory.nodup_of_wf {m : Memory} (h : m.wf) : m.Nodup :=
  h.1.imp fun hlt heq => hlt.ne (congrArg Prod.fst heq)

/-- Settles O15: each memory lists the other's cells, and cells of rising address come in one order only. -/
theorem canonicalMemoriesThatReadAlikeAreEqual : Obligations.CanonicalMemoriesThatReadAlikeAreEqual := by
  intro m n hm hn h
  have hperm : m.Perm n :=
    (List.perm_ext_iff_of_nodup (Memory.nodup_of_wf hm) (Memory.nodup_of_wf hn)).mpr fun _ =>
      ⟨fun hc => Memory.subset_of_read_eq hm h hc, fun hc => Memory.subset_of_read_eq hn (fun a => (h a).symm) hc⟩
  exact hperm.eq_of_pairwise (fun _ _ _ _ hlt hgt => absurd hlt hgt.asymm) hm.1 hn.1

end Sys2Proof.Machine

/-! Effective addresses (42_load_store.md R187, 20_memory.md R53). -/

namespace Sys2Proof.Machine

/-- R53: adding a sign-extended field is the exact sum modulo 2^16. -/
theorem toNat_add_sext16 {k : Nat} (w : Word) (f : BitVec k) :
    ((w + sext16 f).toNat : Int) = ((w.toNat : Int) + f.toInt) % 65536 := by
  have hext : (sext16 f).toNat = (f.toInt % 65536).toNat := BitVec.toNat_ofInt _
  rw [BitVec.toNat_add, hext]
  omega

/-- R53: adding a zero-extended field of at most 16 bits is the exact sum modulo 2^16. -/
theorem toNat_add_zext16 {k : Nat} (hk : k ≤ 16) (w : Word) (f : BitVec k) :
    (w + zext16 f).toNat = (w.toNat + f.toNat) % 65536 := by
  rw [BitVec.toNat_add, zext16, BitVec.toNat_setWidth_of_le hk]

/-- Settles O18. -/
theorem effectiveAddressesWrap : Obligations.EffectiveAddressesWrap :=
  ⟨fun s => toNat_add_sext16 s.pc, fun s b => toNat_add_sext16 (s.readReg b),
    fun s b => toNat_add_zext16 (by decide) (s.readReg b),
    fun i s _ => (exec_effect i s).imp fun _ h => h.1⟩

end Sys2Proof.Machine

/-! What a step does to memory (20_memory.md R56, R57, R65). -/

namespace Sys2Proof.Machine

/-- Settles O37: a stopped engine stays where it is, a live one takes the effect of the fetched instruction. -/
theorem everyStateHasANextState : Obligations.EveryStateHasANextState := by
  intro s
  rcases engineStep_cases s with ⟨-, h⟩ | ⟨-, i, t, -, -, h⟩
  · exact ⟨s, step_of_engineStep h⟩
  · exact ⟨t.retire.1, step_of_engineStep h⟩

/-- R57: of the effects, only a store touches memory. -/
theorem Effect.mem_eq_of_nonstore {s t : State} {i : Instr} (he : Effect s i t)
    (hi : i.opcode ∉ [Opcode.st, .sti, .str]) : t.mem = s.mem := by
  cases he with
  | stored a v h => exact absurd (by simpa using h) hi
  | wroteReg | jumped | fellThrough | gatePassed | gateClosed | halted | ignoredTrap | rejected => rfl

/-- Settles O43. -/
theorem onlyStoresWriteMemory : Obligations.OnlyStoresWriteMemory := by
  intro s u h hi
  rcases step_cases h with ⟨-, rfl⟩ | ⟨-, i, t, rfl, he, rfl⟩
  · exact fun _ => rfl
  · exact State.load_congr (t.retire_mem.trans (he.mem_eq_of_nonstore hi))

/-- R90: a live engine's step leaves the state its instruction left, retired. -/
theorem step_of_live {s t : State} (h : s.stopped = false) (ht : exec s.nextInstr s.advance = .next t) :
    step s = .next t.retire.1 :=
  step_of_engineStep (engineStep_of_live h ht)

/-- R65: whichever store puts `v` at the address after its own, the next step fetches `v`. -/
theorem step_of_store_ahead {s t : State} {a v : Word} (hlive : s.stopped = false) (h : step s = .next t)
    (hexec : exec s.nextInstr s.advance = .next (s.advance.store a v)) (ha : a = s.pc + 1) :
    t.pc = s.pc + 1 ∧ t.fetch = v ∧ t.nextInstr = decode v := by
  obtain rfl : _ = t := Host.Outcome.next.inj ((step_of_live hlive hexec).symm.trans h)
  have hpc : (s.advance.store a v).retire.1.pc = s.pc + 1 := State.retire_pc _
  have hfetch : (s.advance.store a v).retire.1.fetch = v := by
    rw [State.fetch, hpc, State.load_congr (State.retire_mem _), State.load_store, if_pos ha.symm]
  exact ⟨hpc, hfetch, congrArg decode hfetch⟩

/-- Settles O45: each store with its own effective address, formed after the advance. -/
theorem storeIsSeenByTheNextFetch : Obligations.StoreIsSeenByTheNextFetch := by
  rintro s t sr hlive h (⟨o, hi, ha⟩ | ⟨o, hi, ha⟩ | ⟨b, o, hi, ha⟩) <;>
    exact step_of_store_ahead hlive h (by rw [hi]; rfl) ha

end Sys2Proof.Machine

/-! The boundary format of a word (20_memory.md R54). -/

namespace Sys2Proof.Machine

/-- The character of a bit. -/
def charOfBit (b : Bool) : Char := if b then '1' else '0'

/-- The low `k` bits of `n` as characters, the most significant first. -/
def bitLine : Nat → Nat → List Char
  | 0, _ => []
  | k + 1, n => charOfBit (n.testBit k) :: bitLine k n

@[simp] theorem length_bitLine (k n : Nat) : (bitLine k n).length = k := by
  induction k with
  | zero => rfl
  | succ k ih => simp [bitLine, ih]

theorem wordToLine_eq_bitLine (w : Word) : wordToLine w = bitLine 16 w.toNat := rfl

theorem bitOfChar_eq_some_iff {c : Char} {b : Bool} : bitOfChar c = some b ↔ c = charOfBit b := by
  unfold bitOfChar
  by_cases h1 : c = '1'
  · cases b <;> simp [charOfBit, h1]
  · cases b <;> simp [charOfBit, h1]

theorem readBits_cons_eq_some_iff {c : Char} {rest : List Char} {acc n : Nat} :
    readBits (c :: rest) acc = some n ↔ ∃ b, c = charOfBit b ∧ readBits rest (2 * acc + b.toNat) = some n := by
  simp only [← bitOfChar_eq_some_iff]
  cases h : bitOfChar c <;> simp [readBits, h]

/-- Reading appends the bits of the line to those already read: `n` has `acc` above its low bits, and the line is its low
bits. -/
theorem readBits_eq_some_iff {line : List Char} {acc n : Nat} :
    readBits line acc = some n ↔ n / 2 ^ line.length = acc ∧ line = bitLine line.length n := by
  induction line generalizing acc with
  | nil => simp [readBits, bitLine, eq_comm]
  | cons c rest ih =>
    have hhigh (b : Bool) : n / 2 ^ rest.length = 2 * acc + b.toNat ↔
        n / 2 ^ (rest.length + 1) = acc ∧ n.testBit rest.length = b := by
      rw [pow_succ, ← Nat.div_div_eq_div_mul, Nat.testBit_eq_decide_div_mod_eq]
      cases b <;> simp <;> omega
    simp only [readBits_cons_eq_some_iff, ih, hhigh, List.length_cons, bitLine, List.cons.injEq]
    constructor
    · rintro ⟨b, hc, ⟨hacc, rfl⟩, hrest⟩
      exact ⟨hacc, hc, hrest⟩
    · rintro ⟨hacc, hc, hrest⟩
      exact ⟨_, hc, ⟨hacc, rfl⟩, hrest⟩

/-- R54: a line is read as a word exactly when it is that word written. -/
theorem lineToWord_eq_some_iff {line : List Char} {w : Word} : lineToWord line = some w ↔ line = wordToLine w := by
  rw [wordToLine_eq_bitLine]
  constructor
  · intro h
    by_cases hlen : line.length = 16
    · rw [lineToWord, if_pos hlen] at h
      obtain ⟨n, hread, rfl⟩ := Option.map_eq_some_iff.mp h
      obtain ⟨hhigh, hline⟩ := readBits_eq_some_iff.mp hread
      rw [hlen] at hhigh hline
      rw [BitVec.toNat_ofNat, Nat.mod_eq_of_lt (by omega)]
      exact hline
    · rw [lineToWord, if_neg hlen] at h
      cases h
  · rintro rfl
    have hread : readBits (bitLine 16 w.toNat) 0 = some w.toNat := by
      simp [readBits_eq_some_iff, Nat.div_eq_of_lt w.isLt]
    simp [lineToWord, hread]

/-- Settles O55. -/
theorem boundaryLinesAreWords : Obligations.BoundaryLinesAreWords :=
  ⟨fun _ _ => lineToWord_eq_some_iff, fun w j hj => by simp [wordToLine, hj]⟩

end Sys2Proof.Machine

/-! A field read back from the word it was put into (30_encoding.md R83, 00_scope.md R7). -/

namespace Sys2Proof

@[simp] theorem bitField_or (v w : Word) (lo len : Nat) :
    bitField (v ||| w) lo len = bitField v lo len ||| bitField w lo len :=
  BitVec.extractLsb'_or

theorem bitField_fieldAt_same {k lo : Nat} (f : BitVec k) (h : lo + k ≤ 16) : bitField (fieldAt f lo) lo k = f := by
  apply bits_eq
  intro j hj
  have hword : lo + j < 16 := by omega
  simp [-BitVec.getLsbD_eq_getElem, hj, hword]

theorem bitField_fieldAt_disjoint {k lo lo' len : Nat} (f : BitVec k) (h : lo + k ≤ lo' ∨ lo' + len ≤ lo) :
    bitField (fieldAt f lo) lo' len = 0 := by
  apply bits_eq
  intro j hj
  rcases h with h | h
  · have hout : f.getLsbD (lo' + j - lo) = false := BitVec.getLsbD_of_ge f _ (by omega)
    simp [-BitVec.getLsbD_eq_getElem, hout]
  · have hlow : lo' + j < lo := by omega
    simp [-BitVec.getLsbD_eq_getElem, hlow]

/-- R81: below the opcode, an encoding is its operand fields. -/
theorem bitField_encode (i : Instr) {lo len : Nat} (h : lo + len ≤ 12) :
    bitField (encode i) lo len = bitField i.operandBits lo len := by
  simp [encode, bitField_fieldAt_disjoint _ (Or.inr h)]

/-- Settles O1: the opcode field selects the arm of `decode`, and each field of the arm is read where `operandBits` puts
it, the others lying beside it. -/
theorem decodeEncodeRoundTrip : Obligations.DecodeEncodeRoundTrip := by
  intro i
  cases i <;>
    simp (disch := omega) [decode, Instr.opcode, bitField_encode, Instr.operandBits, bitField_fieldAt_same,
      bitField_fieldAt_disjoint]

end Sys2Proof

/-! The arms of the decoder (30_encoding.md R83, R88). -/

namespace Sys2Proof

theorem opcodeOfBits_opcodeField {w : Word} (o : Opcode) (h : opcodeField w = opcodeBits o) :
    opcodeOfBits (opcodeField w) = o := by
  rw [h, opcodeOfBits_opcodeBits]

/-- R88: a field of one bit. -/
theorem bitField_one {w : Word} {j : Nat} {b : Bool} (h : w.getLsbD j = b) : bitField w j 1 = BitVec.ofBool b := by
  apply bits_eq
  intro k hk
  obtain rfl : k = 0 := by omega
  simp [-BitVec.getLsbD_eq_getElem, h]

/-- Settles O8: the opcode names the arm, and bit 5 the row. -/
theorem decodeReadsOperateFields : Obligations.DecodeReadsOperateFields := by
  intro w
  refine ⟨fun ho hs => ?_, fun ho hs => ?_, fun ho hs => ?_, fun ho hs => ?_, fun ho => ?_⟩
  · simp only [decode, opcodeOfBits_opcodeField .add ho, bitField_one hs]; rfl
  · simp only [decode, opcodeOfBits_opcodeField .add ho, bitField_one hs]; rfl
  · simp only [decode, opcodeOfBits_opcodeField .and ho, bitField_one hs]; rfl
  · simp only [decode, opcodeOfBits_opcodeField .and ho, bitField_one hs]; rfl
  · simp only [decode, opcodeOfBits_opcodeField .not ho]; rfl

/-- Settles O9: the opcode names the arm, and bit 11 tells JSR from JSRR. -/
theorem decodeReadsControlAndSystemFields : Obligations.DecodeReadsControlAndSystemFields := by
  intro w
  refine ⟨fun ho => ?_, fun ho => ?_, fun ho hs => ?_, fun ho hs => ?_, fun ho => ?_, fun ho => ?_, fun ho => ?_⟩
  · simp only [decode, opcodeOfBits_opcodeField .br ho]; rfl
  · simp only [decode, opcodeOfBits_opcodeField .jmp ho]; rfl
  · simp only [decode, opcodeOfBits_opcodeField .jsr ho, bitField_one hs]; rfl
  · simp only [decode, opcodeOfBits_opcodeField .jsr ho, bitField_one hs]; rfl
  · simp only [decode, opcodeOfBits_opcodeField .rti ho]; rfl
  · exact decode_eq_trap_iff.mpr ⟨ho, rfl⟩
  · simp only [decode, opcodeOfBits_opcodeField .invalid ho]; rfl

/-- Settles O10: the opcode names the arm. -/
theorem decodeReadsLoadStoreFields : Obligations.DecodeReadsLoadStoreFields := by
  intro w
  refine ⟨fun ho => ?_, fun ho => ?_, fun ho => ?_, fun ho => ?_, fun ho => ?_, fun ho => ?_, fun ho => ?_⟩
  · simp only [decode, opcodeOfBits_opcodeField .ld ho]; rfl
  · simp only [decode, opcodeOfBits_opcodeField .ldi ho]; rfl
  · simp only [decode, opcodeOfBits_opcodeField .ldr ho]; rfl
  · simp only [decode, opcodeOfBits_opcodeField .lea ho]; rfl
  · simp only [decode, opcodeOfBits_opcodeField .st ho]; rfl
  · simp only [decode, opcodeOfBits_opcodeField .sti ho]; rfl
  · simp only [decode, opcodeOfBits_opcodeField .str ho]; rfl

/-- Settles O7. -/
theorem specExampleWordsDecode : Obligations.SpecExampleWordsDecode := by
  unfold Obligations.SpecExampleWordsDecode
  decide

/-- R85: INVALID is the one opcode that names no instruction. -/
theorem Instr.wellFormed_eq_false_iff {i : Instr} : i.wellFormed = false ↔ i.opcode = .invalid := by
  unfold Instr.wellFormed
  cases i.opcode <;> simp [Opcode.legal]

/-- R81: the opcode is the word's leading hexadecimal digit. -/
theorem toNat_opcodeField (w : Word) : (opcodeField w).toNat = w.toNat / 4096 := by
  have hw : w.toNat < 65536 := w.isLt
  simp only [opcodeField, bitField, BitVec.extractLsb'_toNat, Nat.shiftRight_eq_div_pow]
  omega

/-- Settles O6. -/
theorem illegalWordsAreD000ToDFFF : Obligations.IllegalWordsAreD000ToDFFF := by
  intro w
  have hdigit : opcodeBits .invalid = 0xD#4 := rfl
  rw [Instr.wellFormed_eq_false_iff, opcode_decode_iff, hdigit, ← BitVec.toNat_inj, toNat_opcodeField,
    BitVec.toNat_ofNat]
  omega

end Sys2Proof

/-! Words that agree on the bits of a mask. -/

namespace Sys2Proof

theorem and_eq_and_of_submask {v w m m' : Word} (hsub : m' &&& m = m) (h : v &&& m' = w &&& m') :
    v &&& m = w &&& m := by
  rw [← hsub, ← BitVec.and_assoc, ← BitVec.and_assoc, h]

theorem and_or_eq_and_or_iff {v w m m' : Word} :
    v &&& (m ||| m') = w &&& (m ||| m') ↔ v &&& m = w &&& m ∧ v &&& m' = w &&& m' := by
  constructor
  · intro h
    exact ⟨and_eq_and_of_submask (by ext; simp +contextual) h, and_eq_and_of_submask (by ext; simp +contextual) h⟩
  · rintro ⟨hm, hm'⟩
    rw [BitVec.and_or_distrib_left, BitVec.and_or_distrib_left, hm, hm']

theorem xor_and_eq_zero_iff {v w m : Word} : (v ^^^ w) &&& m = 0 ↔ v &&& m = w &&& m := by
  have hdistrib : (v ^^^ w) &&& m = (v &&& m) ^^^ (w &&& m) := by
    ext j
    simp [Bool.and_xor_distrib_right]
  rw [hdistrib]
  exact BitVec.xor_eq_zero_iff

/-- Masking with a field's bits keeps that field in its place. -/
theorem and_fieldAt_allOnes (w : Word) (lo len : Nat) :
    w &&& fieldAt (BitVec.allOnes len) lo = fieldAt (bitField w lo len) lo := by
  apply bits_eq
  intro j hj
  by_cases hlo : j < lo
  · simp [-BitVec.getLsbD_eq_getElem, hlo]
  · have hplace : lo + (j - lo) = j := by omega
    simp [-BitVec.getLsbD_eq_getElem, hj, hlo, hplace, Bool.and_comm]

theorem bitField_eq_bitField_iff {v w : Word} {lo len : Nat} (h : lo + len ≤ 16) :
    bitField v lo len = bitField w lo len ↔
      v &&& fieldAt (BitVec.allOnes len) lo = w &&& fieldAt (BitVec.allOnes len) lo := by
  simp only [and_fieldAt_allOnes]
  constructor
  · exact congrArg (fieldAt · lo)
  · intro he
    simpa [bitField_fieldAt_same _ h] using congrArg (bitField · lo len) he

end Sys2Proof

/-! The rows of the opcode table, and the bits of a word that its row reads (30_encoding.md R84, R89). -/

namespace Sys2Proof

theorem TableRow.admits_iff {r : TableRow} {w : Word} : r.admits w = true ↔ w &&& r.mask = r.fixedBits := beq_iff_eq

theorem TableRow.admits_congr {r : TableRow} {v w : Word} (h : v &&& r.mask = w &&& r.mask) :
    r.admits v = r.admits w := by
  rw [TableRow.admits, h, TableRow.admits]

/-- A field inside the fixed bits of a row has the row's value. -/
theorem TableRow.bitField_of_admits {r : TableRow} {w : Word} (h : r.admits w = true) {lo len : Nat}
    (hmask : r.mask.extractLsb' lo len = BitVec.allOnes len) : bitField w lo len = r.fixedBits.extractLsb' lo len := by
  rw [← admits_iff.mp h, BitVec.extractLsb'_and, hmask, BitVec.and_allOnes]
  rfl

/-! ## One row for each word -/

/-- The word that holds the bits the rows are told apart by, and 0 elsewhere: the opcode, bit 11 (JSR or JSRR) and bit 5
(register or immediate mode). -/
def selectorWord (opcode : BitVec 4) (bit11 bit5 : BitVec 1) : Word :=
  fieldAt opcode 12 ||| fieldAt bit11 11 ||| fieldAt bit5 5

/-- The selectors of a word. -/
def selectorsOf (w : Word) : Word := selectorWord (opcodeField w) (bitField w 11 1) (bitField w 5 1)

theorem selectorsOf_eq_and (w : Word) : selectorsOf w = w &&& 0xF820 := by
  have hmask : (0xF820 : Word) =
      fieldAt (BitVec.allOnes 4) 12 ||| fieldAt (BitVec.allOnes 1) 11 ||| fieldAt (BitVec.allOnes 1) 5 := by decide
  simp only [hmask, BitVec.and_or_distrib_left, and_fieldAt_allOnes]
  rfl

/-- No row fixes another bit than a selector. -/
theorem selectors_and_mask : ∀ r ∈ opcodeTable, 0xF820 &&& r.mask = r.mask := by
  decide

theorem admits_selectorsOf {r : TableRow} (hr : r ∈ opcodeTable) (w : Word) :
    r.admits (selectorsOf w) = r.admits w := by
  apply TableRow.admits_congr
  rw [selectorsOf_eq_and, BitVec.and_assoc, selectors_and_mask r hr]

/-- The decoder chooses the row by the selectors alone. -/
theorem mnemonic_decode_selectorsOf (w : Word) : (decode (selectorsOf w)).mnemonic = (decode w).mnemonic := by
  have hfields : opcodeField (selectorsOf w) = opcodeField w ∧ bitField (selectorsOf w) 11 1 = bitField w 11 1 ∧
      bitField (selectorsOf w) 5 1 = bitField w 5 1 := by
    simp (disch := omega) [opcodeField, selectorsOf, selectorWord, bitField_fieldAt_same, bitField_fieldAt_disjoint]
  obtain ⟨hop, h11, h5⟩ := hfields
  unfold decode
  rw [hop, h11, h5]
  cases opcodeOfBits (opcodeField w) with
  | add | and | jsr => dsimp only; split <;> rfl
  | br | ld | st | ldr | str | rti | not | ldi | sti | jmp | invalid | lea | trap => rfl

/-- R89 for the 64 values of the selectors. -/
theorem rows_of_selectorWord : ∀ (opcode : BitVec 4) (bit11 bit5 : BitVec 1),
    (opcodeTable.filter (fun r => r.admits (selectorWord opcode bit11 bit5))).map (fun r => r.mnemonic) =
      [(decode (selectorWord opcode bit11 bit5)).mnemonic] := by
  decide

/-- Settles O5: the rows a word matches and the row it decodes to depend on its selectors alone. -/
theorem everyWordMatchesOnlyItsRow : Obligations.EveryWordMatchesOnlyItsRow := by
  intro w
  rw [← List.filter_congr fun r hr => admits_selectorsOf hr w, ← mnemonic_decode_selectorsOf]
  exact rows_of_selectorWord _ _ _

theorem exists_row (w : Word) : ∃ r ∈ opcodeTable, r.admits w = true ∧ r.mnemonic = (decode w).mnemonic := by
  have h : (decode w).mnemonic ∈ (opcodeTable.filter (fun r => r.admits w)).map (fun r => r.mnemonic) := by
    rw [everyWordMatchesOnlyItsRow w]
    exact List.mem_singleton_self _
  obtain ⟨r, hr, hm⟩ := List.mem_map.mp h
  obtain ⟨hr, ha⟩ := List.mem_filter.mp hr
  exact ⟨r, hr, ha, hm⟩

theorem row_eq_of_mnemonic : ∀ r ∈ opcodeTable, ∀ r' ∈ opcodeTable, r'.mnemonic = r.mnemonic → r' = r := by
  decide

/-! ## What a row reads -/

/-- The bits a row neither fixes nor ignores: its operand fields. -/
def TableRow.operands (r : TableRow) : Word := ~~~(r.mask ||| r.ignored)

theorem not_ignored_eq : ∀ r ∈ opcodeTable, ~~~r.ignored = r.mask ||| r.operands := by
  decide

/-- No row ignores a bit it fixes. -/
theorem not_ignored_and_mask : ∀ r ∈ opcodeTable, ~~~r.ignored &&& r.mask = r.mask := by
  decide

/-- Words of one row decode alike exactly when they agree on its operand fields. RTI and INVALID decode to their ignored
bits, and so have no operand field. -/
theorem decode_eq_decode_iff_operands {r : TableRow} (hr : r ∈ opcodeTable) (hrti : r.mnemonic ≠ "RTI")
    (hinvalid : r.mnemonic ≠ "INVALID") {v w : Word} (hv : r.admits v = true) (hw : r.admits w = true) :
    decode v = decode w ↔ v &&& r.operands = w &&& r.operands := by
  have fixedv {lo len : Nat} := TableRow.bitField_of_admits hv (lo := lo) (len := len)
  have fixedw {lo len : Nat} := TableRow.bitField_of_admits hw (lo := lo) (len := len)
  fin_cases hr
  -- the rows RTI and INVALID contradict their hypothesis
  all_goals simp only [ne_eq, not_true_eq_false] at hrti hinvalid
  -- in each other row both words decode in one arm, and the masks of the arm's fields make up `operands`
  all_goals
    simp (disch := decide) [decode, opcodeField, opcodeOfBits, fixedv, fixedw, bitField_eq_bitField_iff,
      ← and_or_eq_and_or_iff]
    rfl

/-- R84: words of one row decode alike exactly when they agree on every bit the row does not ignore. -/
theorem decode_eq_decode_iff {r : TableRow} (hr : r ∈ opcodeTable) (hrti : r.mnemonic ≠ "RTI")
    (hinvalid : r.mnemonic ≠ "INVALID") {v w : Word} (hv : r.admits v = true) (hw : r.admits w = true) :
    decode v = decode w ↔ v &&& ~~~r.ignored = w &&& ~~~r.ignored := by
  have hfixed : v &&& r.mask = w &&& r.mask :=
    (TableRow.admits_iff.mp hv).trans (TableRow.admits_iff.mp hw).symm
  rw [decode_eq_decode_iff_operands hr hrti hinvalid hv hw, not_ignored_eq r hr, and_or_eq_and_or_iff,
    and_iff_right hfixed]

/-- Settles O3: what a row fixes it does not ignore, so the second word matches the row too. -/
theorem dontCareBitsAreIgnored : Obligations.DontCareBitsAreIgnored := by
  intro w v r hr hw hdiff hrti hinvalid
  have hagree : w &&& ~~~r.ignored = v &&& ~~~r.ignored := xor_and_eq_zero_iff.mp hdiff
  have hfixed : w &&& r.mask = v &&& r.mask := and_eq_and_of_submask (not_ignored_and_mask r hr) hagree
  have hv : r.admits v = true := (TableRow.admits_congr hfixed).symm.trans hw
  exact (decode_eq_decode_iff hr hrti hinvalid hv hw).mpr hagree.symm

theorem Instr.opcode_of_faulting_mnemonic {i : Instr} (h : i.mnemonic = "RTI" ∨ i.mnemonic = "INVALID") :
    i.opcode = .rti ∨ i.opcode = .invalid := by
  cases i <;> simp [Instr.mnemonic, Instr.opcode] at h ⊢

/-- Settles O2: a word and its re-encoding decode to the same instruction (O1), so they match the same row and agree on
every bit the row does not ignore. -/
theorem encodeDecodeKeepsEveryReadBit : Obligations.EncodeDecodeKeepsEveryReadBit := by
  intro w
  obtain ⟨r, hr, hw, hm⟩ := exists_row w
  have hfaulting (h : r.mnemonic = "RTI" ∨ r.mnemonic = "INVALID") : encode (decode w) = w :=
    encode_decode_of_faulting (Instr.opcode_of_faulting_mnemonic (hm ▸ h))
  refine ⟨r, hr, hw, hm, xor_and_eq_zero_iff.mpr ?_, hfaulting⟩
  by_cases hkept : r.mnemonic = "RTI" ∨ r.mnemonic = "INVALID"
  · rw [hfaulting hkept]
  · obtain ⟨hrti, hinvalid⟩ := not_or.mp hkept
    have hround : decode (encode (decode w)) = decode w := decodeEncodeRoundTrip (decode w)
    obtain ⟨r', hr', he, hm'⟩ := exists_row (encode (decode w))
    obtain rfl : r' = r := row_eq_of_mnemonic r hr r' hr' (by rw [hm', hround, hm])
    exact (decode_eq_decode_iff hr hrti hinvalid he hw).mp hround

end Sys2Proof

/-! The values of the immediates (30_encoding.md R87), the two rows that can fault (R84), and the engine's step
(R90). -/

namespace Sys2Proof.Machine

/-- R10: sign extension keeps the signed value of a field of at most 16 bits. -/
theorem toInt_sext16 {k : Nat} (hk : k ≤ 16) (f : BitVec k) : (sext16 f).toInt = f.toInt :=
  BitVec.toInt_signExtend_of_le hk

/-- R10: zero extension keeps the unsigned value of a field of at most 16 bits. -/
theorem toNat_zext16 {k : Nat} (hk : k ≤ 16) (f : BitVec k) : (zext16 f).toNat = f.toNat :=
  BitVec.toNat_setWidth_of_le hk

theorem State.baseSigned_sub_base (s : State) (b : RegIdx) (f : BitVec 6) :
    s.baseSigned b f - s.readReg b = sext16 f :=
  add_sub_cancel_left _ _

theorem State.baseUnsigned_sub_base (s : State) (b : RegIdx) (f : BitVec 6) :
    s.baseUnsigned b f - s.readReg b = zext16 f :=
  add_sub_cancel_left _ _

/-- Settles O17: the extensions keep the value, and the range is that of the field's width. -/
theorem immediatesKeepTheirValue : Obligations.ImmediatesKeepTheirValue := by
  refine ⟨fun f => ?_, fun f b s => ?_, fun f b s => ?_, fun f => ?_, fun f => ?_⟩
  · exact ⟨toInt_sext16 (by decide) f, f.le_toInt, BitVec.toInt_le⟩
  · rw [State.baseSigned_sub_base]
    exact ⟨toInt_sext16 (by decide) f, f.le_toInt, BitVec.toInt_le⟩
  · rw [State.baseUnsigned_sub_base]
    exact ⟨toNat_zext16 (by decide) f, toNat_zext16 (by decide) f, Nat.le_of_lt_succ f.isLt⟩
  · exact ⟨toInt_sext16 (by decide) f, f.le_toInt, BitVec.toInt_le⟩
  · exact ⟨toInt_sext16 (by decide) f, f.le_toInt, BitVec.toInt_le⟩

/-- R34, R254: the word a fault records shows in the fault record only. -/
theorem State.raise_record_word (k : FaultKind) (o : Opcode) (s : State) : ∃ (t : State) (r : FaultRecord),
    ∀ w, s.raise k o w = { t with faultLatch := some { r with word := w } } :=
  ⟨s.jump (s.pc - 1), ⟨k, o, s.pc - 1, 0⟩, fun _ => rfl⟩

theorem exec_invalid (x : BitVec 12) (s : State) :
    exec (.invalid x) s = .next (s.raise .decodeError .invalid (encode (.invalid x))) := rfl

/-- Settles O4: RTI behind the gate does nothing; the others raise, and their word goes into the record only. -/
theorem ignoredBitsShowOnlyInTheFaultRecord : Obligations.IgnoredBitsShowOnlyInTheFaultRecord := by
  intro x y s
  refine ⟨fun hs => ?_, fun hu => ?_, ?_⟩
  · exact ⟨s, exec_rti_of_supervisor x hs, exec_rti_of_supervisor y hs⟩
  · obtain ⟨t, r, hraise⟩ := s.raise_record_word .privilegeError .rti
    have huser : ¬ s.supervisor = true := by simp [hu]
    exact ⟨t, r, by rw [exec_rti_of_user x huser, hraise], by rw [exec_rti_of_user y huser, hraise]⟩
  · obtain ⟨t, r, hraise⟩ := s.raise_record_word .decodeError .invalid
    exact ⟨t, r, by rw [exec_invalid, hraise], by rw [exec_invalid, hraise]⟩

/-- R90, R254: retirement counts the instruction, unless it faulted. -/
theorem State.retire_fst_eq (t : State) : t.retire.1 = if t.faultLatch = none then t.count else t := by
  cases h : t.faultLatch with
  | none => rw [State.retire_of_latch_none h, if_pos rfl]
  | some r => rw [State.retire_of_latch_some h, if_neg nofun]

/-- Settles O36. -/
theorem stepRunsTheDecodedInstruction : Obligations.StepRunsTheDecodedInstruction := by
  intro s t hlatch hrun hexec
  have hlive : s.stopped = false := by simp [State.stopped, hlatch, hrun]
  have hstep : step s = .next t.retire.1 := step_of_engineStep (engineStep_of_live hlive hexec)
  rw [hstep, State.retire_fst_eq]
  rfl

end Sys2Proof.Machine

/-! The ALU on the values of its operands (40_operate.md R120), and the operate instructions (R121 to R123). -/

namespace Sys2Proof.Machine

/-! ## The ALU -/

/-- R120: addition of the unsigned values, modulo 2^16. -/
theorem aluAdd_eq_ofNat (a b : Word) : aluAdd a b = BitVec.ofNat 16 (a.toNat + b.toNat) := by
  rw [aluAdd, BitVec.ofNat_add, BitVec.ofNat_toNat, BitVec.ofNat_toNat, BitVec.setWidth_eq, BitVec.setWidth_eq]

/-- R121: the sign-extended field adds its signed value, modulo 2^16. -/
theorem aluAdd_sext16_eq_ofInt {k : Nat} (a : Word) (f : BitVec k) :
    aluAdd a (sext16 f) = BitVec.ofInt 16 (a.toNat + f.toInt) := by
  rw [aluAdd, sext16, BitVec.signExtend, BitVec.ofInt_add, BitVec.ofInt_natCast, BitVec.ofNat_toNat, BitVec.setWidth_eq]

theorem getLsbD_aluAnd (a b : Word) (j : Nat) : (aluAnd a b).getLsbD j = (a.getLsbD j && b.getLsbD j) :=
  BitVec.getLsbD_and

theorem getLsbD_aluNot (a : Word) {j : Nat} (hj : j < 16) : (aluNot a).getLsbD j = !a.getLsbD j := by
  rw [aluNot, BitVec.getLsbD_not, decide_eq_true hj, Bool.true_and]

/-- R10: a bit of a sign-extended field is the field's bit there, or its leading bit. -/
theorem getLsbD_sext16_eq_min {k j : Nat} (f : BitVec k) (hj : j < 16) :
    (sext16 f).getLsbD j = f.getLsbD (min j (k - 1)) := by
  rw [getLsbD_sext16 f hj]
  split
  · next hk => rw [Nat.min_eq_left (Nat.le_sub_one_of_lt hk)]
  · next hk => rw [Nat.min_eq_right (by omega)]

/-! ## The instructions -/

/-- R22: an instruction whose meaning is one register write completes, with the frame of that write. -/
theorem exists_writesReg_of_exec {i : Instr} {s : State} {d : RegIdx} {v : Word}
    (h : exec i s = .next (s.writeReg d v)) : ∃ t, exec i s = .next t ∧ WritesReg d v s t :=
  ⟨_, h, s.writeReg_writesReg d v⟩

theorem exec_add (dr sr1 sr2 : RegIdx) (s : State) :
    exec (.add dr sr1 sr2) s = .next (s.writeReg dr (aluAdd (s.readReg sr1) (s.readReg sr2))) := rfl

theorem exec_addi (dr sr1 : RegIdx) (imm5 : BitVec 5) (s : State) :
    exec (.addi dr sr1 imm5) s = .next (s.writeReg dr (aluAdd (s.readReg sr1) (sext16 imm5))) := rfl

theorem exec_and (dr sr1 sr2 : RegIdx) (s : State) :
    exec (.and dr sr1 sr2) s = .next (s.writeReg dr (aluAnd (s.readReg sr1) (s.readReg sr2))) := rfl

theorem exec_andi (dr sr1 : RegIdx) (imm5 : BitVec 5) (s : State) :
    exec (.andi dr sr1 imm5) s = .next (s.writeReg dr (aluAnd (s.readReg sr1) (sext16 imm5))) := rfl

theorem exec_not (dr sr : RegIdx) (s : State) :
    exec (.not dr sr) s = .next (s.writeReg dr (aluNot (s.readReg sr))) := rfl

/-- Settles O19: the sum of the words is the wrapped sum of their values. -/
theorem addWritesTheSum : Obligations.AddWritesTheSum := by
  refine ⟨fun dr sr1 sr2 s => ?_, fun dr sr1 imm5 s => ?_⟩
  · rw [← aluAdd_eq_ofNat]
    exact exists_writesReg_of_exec (exec_add dr sr1 sr2 s)
  · rw [← aluAdd_sext16_eq_ofInt]
    exact exists_writesReg_of_exec (exec_addi dr sr1 imm5 s)

/-- Settles O20: the immediate's leading bit stands for all bits above it. -/
theorem andWritesTheConjunction : Obligations.AndWritesTheConjunction := by
  refine ⟨fun dr sr1 sr2 s => ?_, fun dr sr1 imm5 s => ?_⟩
  · obtain ⟨t, hexec, hwrites⟩ := exists_writesReg_of_exec (exec_and dr sr1 sr2 s)
    exact ⟨t, _, hexec, hwrites, fun j _ => getLsbD_aluAnd _ _ j⟩
  · obtain ⟨t, hexec, hwrites⟩ := exists_writesReg_of_exec (exec_andi dr sr1 imm5 s)
    refine ⟨t, _, hexec, hwrites, fun j hj => ?_⟩
    rw [getLsbD_aluAnd, getLsbD_sext16_eq_min imm5 hj]

/-- Settles O21. -/
theorem notWritesTheComplement : Obligations.NotWritesTheComplement := by
  intro dr sr s
  obtain ⟨t, hexec, hwrites⟩ := exists_writesReg_of_exec (exec_not dr sr s)
  exact ⟨t, _, hexec, hwrites, fun j hj => getLsbD_aluNot _ hj⟩

end Sys2Proof.Machine

/-! The control transfers (41_control.md R150 to R153): each is one jump, and no return address is saved (R155). -/

namespace Sys2Proof.Machine

/-! ## The branch condition -/

/-- R24: N is bit 2 of the 3-bit value, Z bit 1 and P bit 0. -/
theorem Flags.getLsbD_toBits (f : Flags) :
    f.toBits.getLsbD 2 = f.n ∧ f.toBits.getLsbD 1 = f.z ∧ f.toBits.getLsbD 0 = f.p := by
  obtain ⟨n, z, p⟩ := f
  revert n z p
  decide

/-- A 3-bit value is not zero when one of its bits is set. -/
theorem decide_ne_zero_eq_bits (b : BitVec 3) : decide (b ≠ 0) = (b.getLsbD 2 || b.getLsbD 1 || b.getLsbD 0) := by
  revert b
  decide

/-- R150: mask and flags meet when a bit of the mask and the flag it names are set together. -/
theorem Flags.meets_eq (f : Flags) (nzp : BitVec 3) :
    f.meets nzp = ((nzp.getLsbD 2 && f.n) || (nzp.getLsbD 1 && f.z) || (nzp.getLsbD 0 && f.p)) := by
  obtain ⟨hn, hz, hp⟩ := f.getLsbD_toBits
  rw [Flags.meets, decide_ne_zero_eq_bits, BitVec.getLsbD_and, BitVec.getLsbD_and, BitVec.getLsbD_and, hn, hz, hp]

/-! ## The instructions -/

/-- R27: an instruction whose meaning is one jump completes, with the frame of that jump. -/
theorem exists_jumpsTo_of_exec {i : Instr} {s : State} {a : Word} (h : exec i s = .next (s.jump a)) :
    ∃ t, exec i s = .next t ∧ JumpsTo a s t :=
  ⟨_, h, s.jump_jumpsTo a⟩

/-- R150: a branch that is not taken is a jump to the pc as it is. -/
theorem exec_br (nzp : BitVec 3) (offset9 : BitVec 9) (s : State) :
    exec (.br nzp offset9) s = .next (s.jump (if s.flags.meets nzp then s.pc + sext16 offset9 else s.pc)) := by
  rw [apply_ite s.jump]
  rfl

theorem exec_jmp (baseR : RegIdx) (s : State) : exec (.jmp baseR) s = .next (s.jump (s.readReg baseR)) := rfl

theorem exec_jsr (offset11 : BitVec 11) (s : State) :
    exec (.jsr offset11) s = .next (s.jump (s.pc + sext16 offset11)) := rfl

theorem exec_jsrr (baseR : RegIdx) (s : State) : exec (.jsrr baseR) s = .next (s.jump (s.readReg baseR)) := rfl

/-- Settles O26: the branch condition read bit by bit. -/
theorem brJumpsWhenANamedFlagIsSet : Obligations.BrJumpsWhenANamedFlagIsSet := by
  intro nzp o s
  rw [← Flags.meets_eq]
  exact exists_jumpsTo_of_exec (exec_br nzp o s)

/-- Settles O27. -/
theorem jmpAndJsrrGoToTheBaseRegister : Obligations.JmpAndJsrrGoToTheBaseRegister :=
  fun baseR s => ⟨exists_jumpsTo_of_exec (exec_jmp baseR s), exists_jumpsTo_of_exec (exec_jsrr baseR s)⟩

/-- Settles O28. -/
theorem jsrMovesThePcAndSavesNoLink : Obligations.JsrMovesThePcAndSavesNoLink :=
  fun o s => exists_jumpsTo_of_exec (exec_jsr o s)

end Sys2Proof.Machine

/-! The loads, the stores and LEA (42_load_store.md R180 to R187): each is one register write or one memory write, at the
address its addressing mode gives. -/

namespace Sys2Proof.Machine

/-! ## Effective addresses -/

/-- R187, pc-relative. -/
theorem State.pcRelative_eq (s : State) (o : BitVec 9) : s.pcRelative o = s.pc + o.signExtend 16 := rfl

/-- R187, pc-relative indirect: the address is the word at the pc-relative address. -/
theorem State.pcIndirect_eq (s : State) (o : BitVec 9) : s.pcIndirect o = s.load (s.pc + o.signExtend 16) := rfl

/-- R187, base plus signed offset. -/
theorem State.baseSigned_eq (s : State) (b : RegIdx) (o : BitVec 6) :
    s.baseSigned b o = s.readReg b + o.signExtend 16 := rfl

/-- R186, R187, base plus unsigned offset: the sum of the two unsigned values, modulo 2^16. -/
theorem State.baseUnsigned_eq_ofNat (s : State) (b : RegIdx) (o : BitVec 6) :
    s.baseUnsigned b o = BitVec.ofNat 16 ((s.readReg b).toNat + o.toNat) :=
  BitVec.eq_of_toNat_eq (toNat_add_zext16 (by decide) (s.readReg b) o)

/-! ## The instructions -/

/-- R52: an instruction whose meaning is one memory write completes, with the frame of that write. -/
theorem exists_storesWord_of_exec {i : Instr} {s : State} {a v : Word} (h : exec i s = .next (s.store a v)) :
    ∃ t, exec i s = .next t ∧ StoresWord a v s t :=
  ⟨_, h, s.store_storesWord a v⟩

theorem exec_ld (dr : RegIdx) (o : BitVec 9) (s : State) :
    exec (.ld dr o) s = .next (s.writeReg dr (s.load (s.pcRelative o))) := rfl

theorem exec_ldi (dr : RegIdx) (o : BitVec 9) (s : State) :
    exec (.ldi dr o) s = .next (s.writeReg dr (s.load (s.pcIndirect o))) := rfl

theorem exec_ldr (dr baseR : RegIdx) (o : BitVec 6) (s : State) :
    exec (.ldr dr baseR o) s = .next (s.writeReg dr (s.load (s.baseSigned baseR o))) := rfl

theorem exec_lea (dr : RegIdx) (o : BitVec 9) (s : State) :
    exec (.lea dr o) s = .next (s.writeReg dr (s.pcRelative o)) := rfl

theorem exec_st (sr : RegIdx) (o : BitVec 9) (s : State) :
    exec (.st sr o) s = .next (s.store (s.pcRelative o) (s.readReg sr)) := rfl

theorem exec_sti (sr : RegIdx) (o : BitVec 9) (s : State) :
    exec (.sti sr o) s = .next (s.store (s.pcIndirect o) (s.readReg sr)) := rfl

theorem exec_str (sr baseR : RegIdx) (o : BitVec 6) (s : State) :
    exec (.str sr baseR o) s = .next (s.store (s.baseUnsigned baseR o) (s.readReg sr)) := rfl

/-- R56: LEA neither reads nor writes memory, so memory may be replaced before it or after it. -/
theorem exec_lea_with_mem (dr : RegIdx) (o : BitVec 9) (s : State) (m : Memory) :
    exec (.lea dr o) { s with mem := m } = .next { s.writeReg dr (s.pcRelative o) with mem := m } := rfl

/-- Settles O22. -/
theorem loadsWriteTheWordAtTheirAddress : Obligations.LoadsWriteTheWordAtTheirAddress := by
  refine ⟨fun dr o s => ?_, fun dr o s => ?_, fun dr baseR o s => ?_⟩
  · rw [← State.pcRelative_eq]
    exact exists_writesReg_of_exec (exec_ld dr o s)
  · rw [← State.pcIndirect_eq]
    exact exists_writesReg_of_exec (exec_ldi dr o s)
  · rw [← State.baseSigned_eq]
    exact exists_writesReg_of_exec (exec_ldr dr baseR o s)

/-- Settles O23: the address is formed from the pc alone. -/
theorem leaWritesTheAddressAndTheFlags : Obligations.LeaWritesTheAddressAndTheFlags := by
  intro dr o s m
  rw [← State.pcRelative_eq]
  exact ⟨_, exec_lea dr o s, s.writeReg_writesReg dr _, exec_lea_with_mem dr o s m⟩

/-- Settles O24: STI's pointer is read in the state before the write. -/
theorem stAndStiStoreAtTheirAddress : Obligations.StAndStiStoreAtTheirAddress := by
  refine fun sr o s => ⟨?_, ?_⟩
  · rw [← State.pcRelative_eq]
    exact exists_storesWord_of_exec (exec_st sr o s)
  · rw [← State.pcIndirect_eq]
    exact exists_storesWord_of_exec (exec_sti sr o s)

/-- Settles O25. -/
theorem strStoresAtTheUnsignedOffset : Obligations.StrStoresAtTheUnsignedOffset := by
  intro sr baseR o s
  rw [← State.baseUnsigned_eq_ofNat]
  exact exists_storesWord_of_exec (exec_str sr baseR o s)

end Sys2Proof.Machine

/-! The system instructions (43_system.md R220 to R223): TRAP halts or does nothing, RTI passes the privilege-mode gate or
raises, INVALID raises, and no instruction but RTI reads the mode. -/

namespace Sys2Proof.Machine

/-! ## TRAP -/

theorem exec_trap_halt (s : State) : exec (.trap haltVector) s = .next s.halt := rfl

/-- Settles O30. -/
theorem trapHaltsOnVector25Only : Obligations.TrapHaltsOnVector25Only := by
  intro v s
  refine ⟨fun hv => ?_, fun hv => exec_trap_ignored hv s⟩
  rw [hv]
  exact exec_trap_halt s

/-! ## RTI and INVALID -/

/-- R254: an instruction whose meaning is the raising of an exception answers a next state, with the frame of the raising. -/
theorem exists_raised_of_exec {i : Instr} {s : State} {k : FaultKind} {o : Opcode} {w : Word}
    (h : exec i s = .next (s.raise k o w)) : ∃ t, exec i s = .next t ∧ t.faultLatch = some ⟨k, o, s.pc - 1, w⟩ ∧
      t.pc = s.pc - 1 ∧ SameRegs s t ∧ SameMemory s t ∧ t.flags = s.flags ∧ t.supervisor = s.supervisor ∧
      t.running = s.running ∧ t.processed = s.processed :=
  ⟨_, h, s.raise_faultLatch k o w, s.raise_pc k o w, s.raise_readReg k o w, s.raise_load k o w, s.raise_flags k o w,
    s.raise_supervisor k o w, s.raise_running k o w, s.raise_processed k o w⟩

/-- Settles O32. -/
theorem rtiHasNoEffectInSupervisorMode : Obligations.RtiHasNoEffectInSupervisorMode :=
  fun x _ hs => exec_rti_of_supervisor x hs

/-- Settles O33. -/
theorem rtiTrapsInUserMode : Obligations.RtiTrapsInUserMode :=
  fun x _ hu => exists_raised_of_exec (exec_rti_of_user x ((Bool.not_eq_true _).mpr hu))

/-- Settles O34. -/
theorem invalidRaisesDecodeError : Obligations.InvalidRaisesDecodeError :=
  fun x s => exists_raised_of_exec (exec_invalid x s)

/-! ## The mode -/

/-- Settles O35: the other mode goes along with the one update an instruction makes. BR and TRAP choose theirs, by the flags
and by the vector; the choice does not read the mode either. -/
theorem onlyRtiReadsTheMode : Obligations.OnlyRtiReadsTheMode := by
  intro i s t b hi h
  cases i with
  | add | addi | and | andi | not | jmp | jsr | jsrr | ld | ldi | ldr | lea | st | sti | str | invalid => cases h; rfl
  | br nzp o =>
    rw [exec_br] at h
    cases h
    exact exec_br nzp o _
  | trap v =>
    by_cases hv : v = haltVector
    · subst hv
      rw [exec_trap_halt] at h
      cases h
      exact exec_trap_halt _
    · rw [exec_trap_ignored hv] at h
      cases h
      exact exec_trap_ignored hv _
  | rti x => exact absurd rfl hi

end Sys2Proof.Machine

/-! What an engine does that stands still, halts or faults (60_exceptions.md R251 to R257, R271, R272), and the run loop
(R270). -/

namespace Sys2Proof.Machine

/-! ## The run loop -/

/-- R270: after a completed step the run goes on. -/
theorem run_succ_of_completed {s t : State} (h : engineStep s = .next (t, .completed)) (fuel : Nat) :
    run (fuel + 1) s = run fuel t := by
  rw [run, h]

/-- R270: any other outcome is the run's. -/
theorem run_succ_of_ended {s t : State} {o : StepOutcome} (h : engineStep s = .next (t, o)) (ho : o ≠ .completed)
    (fuel : Nat) : run (fuel + 1) s = .next (t, o) := by
  rw [run, h]
  cases o with
  | completed => exact absurd rfl ho
  | halted | fault | noEffect => rfl

theorem exists_engineStep (s : State) : ∃ t o, engineStep s = .next (t, o) := by
  rcases engineStep_cases s with ⟨-, h⟩ | ⟨-, _, t, -, -, h⟩
  · exact ⟨s, .noEffect, h⟩
  · exact ⟨t.retire.1, t.retire.2, h⟩

/-- Settles O54, by induction on the fuel of the run that ended. -/
theorem runEndsTheSameUnderMoreFuel : Obligations.RunEndsTheSameUnderMoreFuel := by
  intro k m
  induction k with
  | zero =>
    intro s t o h ho
    cases h
    exact absurd rfl ho
  | succ k ih =>
    intro s t o h ho
    rw [Nat.succ_add]
    obtain ⟨u, o', hstep⟩ := exists_engineStep s
    by_cases hc : o' = .completed
    · subst hc
      rw [run_succ_of_completed hstep] at h ⊢
      exact ih u t o h ho
    · rw [run_succ_of_ended hstep hc] at h ⊢
      exact h

/-- R92, R250: the outcomes of a live engine's step that are exceptions, by the instruction fetched. -/
theorem engineStep_fault_iff {s t : State} {o : StepOutcome} (hlive : s.stopped = false)
    (h : engineStep s = .next (t, o)) : (o = .fault .decodeError ↔ s.nextInstr.opcode = .invalid) ∧
      (o = .fault .privilegeError ↔ s.nextInstr.opcode = .rti ∧ s.supervisor = false) := by
  rcases engineStep_cases s with ⟨hstop, -⟩ | ⟨-, i, u, rfl, he, hu⟩
  · exact absurd (hlive.symm.trans hstop) nofun
  · obtain ⟨hlatch, hrun⟩ := State.stopped_eq_false hlive
    obtain ⟨hdecode, hprivilege, -, -⟩ := he.outcome_iff hlatch hrun
    have hretire : u.retire = (t, o) := Host.Outcome.next.inj (hu.symm.trans h)
    rw [hretire] at hdecode hprivilege
    exact ⟨hdecode, hprivilege⟩

/-- Settles O58: the two exceptions are outcomes other than Completed. -/
theorem runRepeatsStepWhileItCompletes : Obligations.RunRepeatsStepWhileItCompletes := by
  intro s t o fuel h
  refine ⟨?_, fun ho => run_succ_of_ended h ho fuel, fun hlive hi => ?_, fun hlive hi hu => ?_⟩
  · rintro rfl
    exact run_succ_of_completed h fuel
  · obtain rfl : o = .fault .decodeError := (engineStep_fault_iff hlive h).1.mpr hi
    exact run_succ_of_ended h nofun fuel
  · obtain rfl : o = .fault .privilegeError := (engineStep_fault_iff hlive h).2.mpr ⟨hi, hu⟩
    exact run_succ_of_ended h nofun fuel

/-! ## Stopped and halting engines -/

theorem State.stopped_eq_true_iff {s : State} : s.stopped = true ↔ s.faultLatch ≠ none ∨ s.running = false := by
  simp [State.stopped, Option.isSome_iff_ne_none]

theorem State.stopped_eq_false_of_live {s : State} (hlatch : s.faultLatch = none) (hrun : s.running = true) :
    s.stopped = false := by
  simp [State.stopped, hlatch, hrun]

/-- Settles O38. -/
theorem stoppedEngineDoesNothing : Obligations.StoppedEngineDoesNothing := by
  intro s h
  have hstep : engineStep s = .next (s, .noEffect) := engineStep_of_stopped (State.stopped_eq_true_iff.mpr h)
  exact ⟨hstep, step_of_engineStep hstep, run_succ_of_ended hstep nofun⟩

/-- Settles O29: the halt clears `running`, any other vector does nothing. -/
theorem trapIsNoTrapEntry : Obligations.TrapIsNoTrapEntry := by
  intro v s
  by_cases hv : v = haltVector
  · subst hv
    exact ⟨s.halt, exec_trap_halt s, s.halt_readReg, s.halt_load, rfl, rfl, rfl, rfl, rfl⟩
  · exact ⟨s, exec_trap_ignored hv s, fun _ => rfl, fun _ => rfl, rfl, rfl, rfl, rfl, rfl⟩

/-- R32, R221: the halting TRAP is retired as a completed instruction. -/
theorem engineStep_of_halting {s : State} (hlive : s.stopped = false) (hi : s.nextInstr = .trap haltVector) :
    engineStep s = .next (s.advance.halt.count, .halted) := by
  have hexec : exec s.nextInstr s.advance = .next s.advance.halt := by rw [hi, exec_trap_halt]
  have hlatch : s.advance.halt.faultLatch = none := (State.stopped_eq_false hlive).1
  rw [engineStep_of_live hlive hexec, State.retire_of_latch_none hlatch]
  rfl

/-- Settles O31. -/
theorem haltIsNoException : Obligations.HaltIsNoException := by
  intro s hlive hi
  have hstep := engineStep_of_halting hlive hi
  exact ⟨_, hstep, rfl, (State.stopped_eq_false hlive).1, rfl, run_succ_of_ended hstep nofun⟩

/-! ## Precise faults -/

/-- R254: raising undoes the engine's advance, so the fault latch alone differs from the state before the fetch. -/
theorem State.raise_advance (s : State) (k : FaultKind) (o : Opcode) (w : Word) :
    s.advance.raise k o w = { s with faultLatch := some ⟨k, o, s.pc, w⟩ } := by
  have hpc : s.advance.currentAddress = s.pc := BitVec.add_sub_cancel s.pc 1
  simp only [State.raise, Config.faultPc, State.raiseWith, hpc]
  rfl

/-- R34, R254: a live engine whose instruction raises keeps its state, the record apart, and that shows the fetched word. -/
theorem step_of_raising {s : State} {i : Instr} {k : FaultKind} (hlive : s.stopped = false) (hi : s.nextInstr = i)
    (hfaulting : i.opcode = .rti ∨ i.opcode = .invalid)
    (hexec : exec i s.advance = .next (s.advance.raise k i.opcode (encode i))) :
    step s = .next { s with faultLatch := some ⟨k, i.opcode, s.pc, s.load s.pc⟩ } := by
  subst hi
  have hword : encode s.nextInstr = s.load s.pc := encode_decode_of_faulting hfaulting
  rw [hword, State.raise_advance] at hexec
  rw [step_of_live hlive hexec, State.retire_of_latch_some rfl]

/-- Settles O39: the opcode of the fetched word names the instruction that raises. -/
theorem faultsArePrecise : Obligations.FaultsArePrecise := by
  intro s hlatch hrun
  have hlive : s.stopped = false := State.stopped_eq_false_of_live hlatch hrun
  obtain ⟨-, -, -, -, hrti, -, hinvalid⟩ := decodeReadsControlAndSystemFields (s.load s.pc)
  refine ⟨fun ho => ?_, fun ho hu => ?_⟩
  · exact step_of_raising hlive (hinvalid ho) (.inr rfl) (exec_invalid _ _)
  · have huser : ¬ s.advance.supervisor = true := (Bool.not_eq_true _).mpr hu
    exact step_of_raising hlive (hrti ho) (.inl rfl) (exec_rti_of_user _ huser)

end Sys2Proof.Machine

/-! The load image (60_exceptions.md R277, R279): which images are refused, and where the words of the others go. -/

namespace Sys2Proof.Machine

/-! ## Lines and images -/

theorem bitOfChar_eq_none_iff {c : Char} : bitOfChar c = none ↔ c ≠ '0' ∧ c ≠ '1' := by
  unfold bitOfChar
  by_cases h1 : c = '1' <;> by_cases h0 : c = '0' <;> simp [h1, h0]

theorem readBits_eq_none_iff {line : List Char} {acc : Nat} :
    readBits line acc = none ↔ ∃ c ∈ line, c ≠ '0' ∧ c ≠ '1' := by
  induction line generalizing acc with
  | nil => simp [readBits]
  | cons c rest ih =>
    rw [List.exists_mem_cons_iff, ← bitOfChar_eq_none_iff]
    cases h : bitOfChar c with
    | none => simp [readBits, h]
    | some b => simp [readBits, h, ih]

/-- R279: the lines that are no word. -/
theorem lineToWord_eq_none_iff {line : List Char} :
    lineToWord line = none ↔ line.length ≠ 16 ∨ ∃ c ∈ line, c ≠ '0' ∧ c ≠ '1' := by
  by_cases hlen : line.length = 16
  · rw [lineToWord, if_pos hlen, Option.map_eq_none_iff, readBits_eq_none_iff, or_iff_right (not_not_intro hlen)]
  · rw [lineToWord, if_neg hlen]
    exact iff_of_true rfl (.inl hlen)

theorem linesToWords_eq_none_iff {image : List (List Char)} :
    linesToWords image = none ↔ ∃ line ∈ image, lineToWord line = none := by
  induction image with
  | nil => simp [linesToWords]
  | cons line rest ih =>
    rw [List.exists_mem_cons_iff, ← ih]
    cases hline : lineToWord line <;> cases hrest : linesToWords rest <;> simp [linesToWords, hline, hrest]

/-- R54, R277: an image is read as the words it was written from. -/
theorem linesToWords_eq_some_iff {image : List (List Char)} {words : List Word} :
    linesToWords image = some words ↔ image = words.map wordToLine := by
  induction image generalizing words with
  | nil => cases words <;> simp [linesToWords]
  | cons line rest ih =>
    cases words with
    | nil => cases hline : lineToWord line <;> cases hrest : linesToWords rest <;> simp [linesToWords, hline, hrest]
    | cons w words =>
      rw [List.map_cons, List.cons.injEq, ← lineToWord_eq_some_iff, ← ih]
      cases hline : lineToWord line <;> cases hrest : linesToWords rest <;> simp [linesToWords, hline, hrest]

theorem loadImage_of_words {image : List (List Char)} {start : Word} {words : List Word}
    (h : linesToWords image = some (start :: words)) (s : State) : loadImage s image = .next (loadWords s start words) := by
  rw [loadImage, h]

theorem loadImage_of_malformed {image : List (List Char)} (h : linesToWords image = none) (s : State) :
    loadImage s image = .refused .malformedImage := by
  rw [loadImage, h]

/-- Settles O57: an image that can be read is the empty one, or has a start address and is loaded. -/
theorem malformedImagesAreRefused : Obligations.MalformedImagesAreRefused := by
  intro s image
  simp only [← lineToWord_eq_none_iff, ← linesToWords_eq_none_iff]
  cases h : linesToWords image with
  | none => exact iff_of_true (loadImage_of_malformed h s) (.inr rfl)
  | some words =>
    obtain rfl : image = words.map wordToLine := linesToWords_eq_some_iff.mp h
    cases words with
    | nil => exact iff_of_true rfl (.inl rfl)
    | cons start words =>
      rw [loadImage_of_words h]
      exact iff_of_false nofun (by simp)

/-! ## Placement -/

/-- The address after `a`, and `j` on from there. -/
theorem add_ofNat_succ (a : Word) (j : Nat) : a + BitVec.ofNat 16 (j + 1) = a + 1 + BitVec.ofNat 16 j := by
  rw [Nat.add_comm, BitVec.ofNat_add, BitVec.add_assoc]
  rfl

/-- No address recurs before the memory is full (R50). -/
theorem ne_add_one_add_ofNat (a : Word) {j : Nat} (hj : j < 65535) : a ≠ a + 1 + BitVec.ofNat 16 j := by
  bv_omega

/-- R277: placing words changes memory and nothing else. -/
theorem exists_writeWords_eq (words : List Word) (s : State) (a : Word) :
    ∃ m, writeWords s a words = { s with mem := m } := by
  induction words generalizing s a with
  | nil => exact ⟨s.mem, rfl⟩
  | cons w rest ih => exact ih (writeMemory s a w) (a + 1)

theorem load_writeWords_other {words : List Word} {s : State} {a b : Word}
    (h : ∀ j < words.length, b ≠ a + BitVec.ofNat 16 j) : (writeWords s a words).load b = s.load b := by
  induction words generalizing s a with
  | nil => rfl
  | cons w rest ih =>
    have hhead : b ≠ a := by simpa using h 0 (Nat.succ_pos _)
    have hrest : ∀ j < rest.length, b ≠ a + 1 + BitVec.ofNat 16 j := fun j hj =>
      add_ofNat_succ a j ▸ h (j + 1) (Nat.succ_lt_succ hj)
    rw [writeWords, ih hrest, writeMemory_eq, State.load_store, if_neg hhead]

theorem load_writeWords_same {words : List Word} {s : State} {a : Word} (hlen : words.length ≤ 65536) {j : Nat}
    (hj : j < words.length) : (writeWords s a words).load (a + BitVec.ofNat 16 j) = words[j] := by
  induction words generalizing s a j with
  | nil => exact absurd hj (Nat.not_lt_zero j)
  | cons w rest ih =>
    rw [List.length_cons] at hlen hj
    cases j with
    | zero =>
      have hkept : (writeWords (s.store a w) (a + 1) rest).load a = (s.store a w).load a :=
        load_writeWords_other fun j hj => ne_add_one_add_ofNat a (by omega)
      simpa [writeWords, State.load_store] using hkept
    | succ j =>
      rw [add_ofNat_succ]
      exact ih (by omega) (Nat.lt_of_succ_lt_succ hj)

/-- Settles O56: the pc is set after the words are placed, and setting it leaves memory alone. -/
theorem loadImagePlacesItsWords : Obligations.LoadImagePlacesItsWords := by
  intro s start words hlen
  have hload : loadImage s ((start :: words).map wordToLine) = .next (loadWords s start words) :=
    loadImage_of_words (linesToWords_eq_some_iff.mpr rfl) s
  obtain ⟨m, hm⟩ := exists_writeWords_eq words s start
  have hframe : loadWords s start words = { s with pc := start, mem := m } := by rw [loadWords, hm]; rfl
  refine ⟨_, hload, rfl, fun j hj => load_writeWords_same hlen hj, fun a ha => load_writeWords_other ha, ?_⟩
  rw [hframe]
  exact ⟨fun _ => rfl, rfl, rfl, rfl, rfl, rfl⟩

end Sys2Proof.Machine

/-! The host interface (60_exceptions.md R275, R276): its operations on the state, the status outputs, and its sessions. -/

namespace Sys2Proof.Machine

/-- Settles O53. -/
theorem hostOperationsDoWhatTheySay : Obligations.HostOperationsDoWhatTheySay :=
  fun s => ⟨s.writeReg_writesReg, s.jump_jumpsTo,
    fun b => ⟨rfl, setSupervisor_readReg s b, setSupervisor_load s b, rfl, rfl, rfl, rfl, rfl⟩, s.flags.getLsbD_toBits⟩

/-! ## The status outputs -/

theorem State.status_of_fault {s : State} (h : s.faultLatch ≠ none) : s.status = .faulted := if_pos h

/-- R33, without a fault. -/
theorem State.status_of_no_fault {s : State} (h : s.faultLatch = none) :
    s.status = if s.running = false then .halted else if s.processed = 0 then .idle else .running :=
  if_neg (not_not_intro h)

/-- R33: the conditions of the four statuses exclude each other. -/
theorem State.status_iff (s : State) : (s.status = .faulted ↔ s.faultLatch ≠ none) ∧
    (s.status = .halted ↔ s.faultLatch = none ∧ s.running = false) ∧
    (s.status = .idle ↔ s.faultLatch = none ∧ s.running = true ∧ s.processed = 0) ∧
    (s.status = .running ↔ s.faultLatch = none ∧ s.running = true ∧ 0 < s.processed) := by
  by_cases hl : s.faultLatch = none
  · rw [State.status_of_no_fault hl]
    cases hr : s.running with
    | false => simp [hl]
    | true => by_cases hp : s.processed = 0 <;> simp [hl, hp, Nat.pos_iff_ne_zero]
  · simp [State.status_of_fault hl, hl]

/-- R250: the opcode that raises each exception. -/
def FaultKind.raisingOpcode : FaultKind → Opcode
  | .decodeError => .invalid
  | .privilegeError => .rti

/-- R250, R254: after a fault the record shows the kind that was returned and the opcode that raises it. -/
theorem exists_record_of_fault {s t : State} {k : FaultKind} (h : engineStep s = .next (t, .fault k)) :
    ∃ r, t.faultLatch = some r ∧ r.kind = k ∧ r.opcode = k.raisingOpcode := by
  rcases engineStep_cases s with ⟨-, hs⟩ | ⟨hlive, i, u, -, he, hs⟩
  · rw [hs] at h
    cases h
  · have hretire : u.retire = (t, .fault k) := Host.Outcome.next.inj (hs.symm.trans h)
    rcases he.faultLatch_cases with hkept | ⟨ho, -, rfl⟩ | ⟨ho, rfl⟩
    · have hnone : u.faultLatch = none := hkept.trans (State.stopped_eq_false hlive).1
      rw [State.retire_of_latch_none hnone] at hretire
      cases hr : u.running <;> simp [hr] at hretire
    · cases hretire
      exact ⟨_, rfl, rfl, ho⟩
    · cases hretire
      exact ⟨_, rfl, rfl, ho⟩

/-- R34, R250: the cause code and the opcode name after a fault. -/
theorem statusOutputs_of_fault {s t : State} {k : FaultKind} (h : engineStep s = .next (t, .fault k)) :
    (statusOutputs t).causeCode = some k.code ∧ (statusOutputs t).rejectedOpcode = some k.raisingOpcode.name := by
  obtain ⟨r, hlatch, hkind, hopcode⟩ := exists_record_of_fault h
  simp [statusOutputs, hlatch, hkind, hopcode]

theorem statusOutputs_of_no_fault {s : State} (h : s.faultLatch = none) :
    (statusOutputs s).causeCode = none ∧ (statusOutputs s).rejectedOpcode = none := by
  simp [statusOutputs, h]

/-- Settles O59. -/
theorem statusOutputsShowTheState : Obligations.StatusOutputsShowTheState := by
  refine ⟨fun s => ?_, fun s t => ⟨statusOutputs_of_fault, statusOutputs_of_fault⟩⟩
  obtain ⟨hfaulted, hhalted, hidle, hrunning⟩ := s.status_iff
  exact ⟨⟨rfl, rfl, rfl, rfl, rfl⟩, hfaulted, hhalted, hidle, hrunning, statusOutputs_of_no_fault⟩

/-! ## Sessions -/

/-- R275: of the operations, only `run()` can still be in progress. -/
theorem eq_run_of_pending {op : HostOp} {s t : State} (h : op.apply s = .next (t, .pending)) :
    ∃ fuel, op = .run fuel := by
  cases op with
  | run fuel => exact ⟨fuel, rfl⟩
  | step =>
    obtain ⟨u, o, hstep⟩ := exists_engineStep s
    simp [HostOp.apply, hstep] at h
  | readMemory | writeMemory | readRegister | writeRegister | getFlags | setPC | setSupervisor | readStatus => cases h

theorem hostOp_apply_run {fuel : Nat} {s t : State} {o : StepOutcome} (h : Machine.run fuel s = .next (t, o)) :
    (HostOp.run fuel).apply s = .next (t, runReply o) := by
  rw [HostOp.apply, h]

theorem runReply_of_ended {o : StepOutcome} (ho : o ≠ .completed) : runReply o = .outcome o := by
  cases o with
  | completed => exact absurd rfl ho
  | halted | fault | noEffect => rfl

theorem session_cons_of_pending {op : HostOp} {s t : State} (h : op.apply s = .next (t, .pending))
    (rest : List HostOp) : session (op :: rest) s = .next (t, [.pending]) := by
  rw [session, h]
  exact if_pos rfl

theorem session_cons_of_returned {op : HostOp} {rest : List HostOp} {s t u : State} {r : HostReply}
    {rs : List HostReply} (h : op.apply s = .next (t, r)) (hr : r ≠ .pending) (hrest : session rest t = .next (u, rs)) :
    session (op :: rest) s = .next (u, r :: rs) := by
  simp [session, h, hr, hrest]

/-- R276: in a session, a pending reply is the last one, and a `run()`'s. -/
theorem session_pending {ops : List HostOp} {s t : State} {rs : List HostReply} (h : session ops s = .next (t, rs))
    {j : Nat} (hj : rs[j]? = some .pending) : j + 1 = rs.length ∧ ∃ fuel, ops[j]? = some (.run fuel) := by
  induction ops generalizing s rs j with
  | nil => cases h; cases hj
  | cons op ops ih =>
    rcases session_cons_cases h with ⟨ha, rfl⟩ | ⟨u, r, rs', -, hr, hrest, rfl⟩
    · obtain ⟨fuel, rfl⟩ := eq_run_of_pending ha
      cases j with
      | zero => exact ⟨rfl, fuel, rfl⟩
      | succ j => cases hj
    · cases j with
      | zero => exact absurd (Option.some.inj hj) hr
      | succ j => simpa using ih hrest hj

/-- R276: in a session, every operation up to a pending one has a reply. -/
theorem session_length {ops : List HostOp} {s t : State} {rs : List HostReply} (h : session ops s = .next (t, rs))
    (hreturned : HostReply.pending ∉ rs) : rs.length = ops.length := by
  induction ops generalizing s rs with
  | nil => cases h; rfl
  | cons op ops ih =>
    rcases session_cons_cases h with ⟨-, rfl⟩ | ⟨u, r, rs', -, -, hrest, rfl⟩
    · exact absurd (List.mem_singleton_self _) hreturned
    · exact congrArg (· + 1) (ih hrest fun hmem => hreturned (List.mem_cons_of_mem r hmem))

/-- Settles O60. -/
theorem hostWaitsWhileRunIsInProgress : Obligations.HostWaitsWhileRunIsInProgress := by
  refine ⟨fun fuel rest s t hrun => ?_, fun fuel rest s t u o rs hrun ho hrest => ?_, fun ops s t rs h => ?_⟩
  · exact session_cons_of_pending (hostOp_apply_run hrun) rest
  · have happly := hostOp_apply_run hrun
    rw [runReply_of_ended ho] at happly
    exact session_cons_of_returned happly nofun hrest
  · exact ⟨fun j hj => session_pending h hj, session_length h⟩

end Sys2Proof.Machine

/-! Branches before the first register write (70_reset_and_hazards.md R304). -/

namespace Sys2Proof.Machine

/-- R150: no mask meets flags of which none is set. -/
theorem Flags.meets_of_allClear {f : Flags} (h : f.allClear = true) (nzp : BitVec 3) : f.meets nzp = false := by
  obtain ⟨⟨hn, hz⟩, hp⟩ : (f.n = false ∧ f.z = false) ∧ f.p = false := by simpa [Flags.allClear] using h
  simp [Flags.meets_eq, hn, hz, hp]

/-- R150: a branch that is not taken leaves the state as it is. -/
theorem exec_br_of_not_meets {nzp : BitVec 3} {s : State} (h : s.flags.meets nzp = false) (offset9 : BitVec 9) :
    exec (.br nzp offset9) s = .next s := by
  rw [exec_br, h]
  rfl

/-- Settles O46: the branch is not taken, so the engine's advance and count are all that is left of the step. -/
theorem brFallsThroughBeforeAnyRegisterWrite : Obligations.BrFallsThroughBeforeAnyRegisterWrite := by
  intro s nzp o hlive hclear hi
  have hexec : exec s.nextInstr s.advance = .next s.advance := by
    rw [hi]
    exact exec_br_of_not_meets (s := s.advance) (Flags.meets_of_allClear hclear nzp) o
  have hlatch : s.advance.faultLatch = none := (State.stopped_eq_false hlive).1
  rw [step_of_live hlive hexec, State.retire_of_latch_none hlatch]
  rfl

end Sys2Proof.Machine
